-- ==== Sys2Proof/Word.lean ====
section
/-! DEFINITION. The fixed widths of rule R8 (00_scope.md): a byte, a 32-bit argument, data or packet word, and a
36-bit command or response. Every value is unsigned (R10). -/

namespace Sys2Proof

/-- A byte: 8 bits (R8). -/
abbrev Byte := BitVec 8

/-- A 32-bit word: a command's argument, a response's data, or a packet word (R8, R79). -/
abbrev Word := BitVec 32

/-- A command as a port presents it: 36 bits, the operation code in [35:32] and the argument in [31:0] (R8, R70). -/
abbrev Command := BitVec 36

/-- A 4-bit operation code or response code (R70, R71). -/
abbrev Nibble := BitVec 4

end Sys2Proof
end

