-- ==== Sys2Proof/Syntax.lean ====
section
/-! DEFINITION. The eight operations of rule R72 (30_encoding.md), one constructor per row of spec/opcode_table.json,
each with the operand fields rule R91 gives it, taken as they are. -/

namespace Sys2Proof

/-- An operation with its operands. -/
inductive Instr where
  /-- NOP, op 0x0: no operation (R150). -/
  | nop
  /-- INGEST, op 0x1: append one byte, `arg[7:0]`, to the FrameBuffer (R131). -/
  | ingest (byte : Byte)
  /-- POLL, op 0x2: try to extract one packet (R134). -/
  | poll
  /-- ENCODE, op 0x3: `type_flags`, `data0`, `data1` in `arg[31:8]` (R114). -/
  | encode (typeFlags data0 data1 : Byte)
  /-- VALIDATE, op 0x4: the four bytes of a packet word (R115). -/
  | validate (typeFlags data0 data1 checksum : Byte)
  /-- STATS_READ, op 0x5: the counter id `arg[2:0]` (R151). -/
  | statsRead (id : BitVec 3)
  /-- STATS_CLEAR, op 0x6 (R152). -/
  | statsClear
  /-- STATUS_READ, op 0x7: the selector `arg[1:0]` (R153). -/
  | statusRead (sel : BitVec 2)
deriving DecidableEq, Repr

end Sys2Proof
end

