-- ==== Sys2Proof/WellFormed.lean ====
section
/-! DEFINITION. Which operand values an operation admits: a counter id of 0 to 3 (R37) and a status selector of 0 to 2
(R38). The reserved values are no operation: a command that holds one responds ILLEGAL (R74). -/

namespace Sys2Proof

/-- R37: ids 0 to 3 name a counter, ids 4 to 7 are reserved. -/
def counterIdOk (id : BitVec 3) : Bool := decide (id.toNat < 4)

/-- R38: selectors 0 to 2 name a status value, selector 3 is reserved. -/
def selectorOk (sel : BitVec 2) : Bool := decide (sel.toNat < 3)

/-- The check an instruction's operands must pass (R74). -/
def Instr.wellFormed : Instr → Bool
  | .nop => true
  | .ingest _ => true
  | .poll => true
  | .encode _ _ _ => true
  | .validate _ _ _ _ => true
  | .statsRead id => counterIdOk id
  | .statsClear => true
  | .statusRead sel => selectorOk sel

end Sys2Proof
end

