-- ==== Sys2Proof/Decode.lean ====
section
/-! DEFINITION. From a 36-bit command to an operation or to ILLEGAL, in the order of rule R92 (30_encoding.md), and
back: `encode` writes the command of an operation from R72 and R91. The rows of spec/opcode_table.json stand beside
them as data, so that a statement can hold the decoder against the table. -/

namespace Sys2Proof

/-- Why a command is ILLEGAL (R73, R74). The response does not show the reason; it is kept so that a rejection has a
name. -/
inductive IllegalReason where
  | reservedOp         -- R73: op 0x8 to 0xF
  | reservedBits       -- R74: a reserved argument bit is set
  | reservedCounterId  -- R74: STATS_READ id 4 to 7
  | reservedSelector   -- R74: STATUS_READ selector 3
deriving DecidableEq, Repr

/-- What a command decodes to: exactly one operation, or ILLEGAL (R92). -/
inductive Decoded where
  | instr (i : Instr)
  | illegal (reason : IllegalReason)
deriving DecidableEq, Repr

/-- The operation code, `cmd[35:32]` (R70). -/
def Command.op (cmd : Command) : Nibble := cmd.extractLsb' 32 4

/-- The argument, `cmd[31:0]` (R70). -/
def Command.arg (cmd : Command) : Word := cmd.extractLsb' 0 32

/-- `RES_MASK[op]` of R92: the argument bits of an operation that must be zero. -/
def resMask (op : Nibble) : Word :=
  match op.toNat with
  | 0 => 0xFFFFFFFF#32
  | 1 => 0xFFFFFF00#32
  | 2 => 0xFFFFFFFF#32
  | 3 => 0x000000FF#32
  | 4 => 0x00000000#32
  | 5 => 0xFFFFFFF8#32
  | 6 => 0xFFFFFFFF#32
  | 7 => 0xFFFFFFFC#32
  | _ => 0x00000000#32

/-- Operation `op` with the fields of R91; a reserved op (R73) gives none. -/
def operation (op : Nibble) (arg : Word) : Option Instr :=
  match op.toNat with
  | 0 => some .nop
  | 1 => some (.ingest (arg.extractLsb' 0 8))
  | 2 => some .poll
  | 3 => some (.encode (arg.extractLsb' 24 8) (arg.extractLsb' 16 8) (arg.extractLsb' 8 8))
  | 4 => some (.validate (arg.extractLsb' 24 8) (arg.extractLsb' 16 8) (arg.extractLsb' 8 8) (arg.extractLsb' 0 8))
  | 5 => some (.statsRead (arg.extractLsb' 0 3))
  | 6 => some .statsClear
  | 7 => some (.statusRead (arg.extractLsb' 0 2))
  | _ => none

/-- The last two checks of R92, on the operand a decoded operation carries. -/
def checkOperand (i : Instr) : Decoded :=
  match i with
  | .statsRead id => if counterIdOk id then .instr i else .illegal .reservedCounterId
  | .statusRead sel => if selectorOk sel then .instr i else .illegal .reservedSelector
  | .nop | .ingest _ | .poll | .encode _ _ _ | .validate _ _ _ _ | .statsClear => .instr i

/-- R92: decoding is total. The reserved op is looked for first, then a reserved argument bit, then a reserved counter
id or selector (R177). -/
def decode (cmd : Command) : Decoded :=
  match operation cmd.op cmd.arg with
  | none => .illegal .reservedOp
  | some i => if cmd.arg &&& resMask cmd.op = 0 then checkOperand i else .illegal .reservedBits

/-- The operation code of R72. -/
def Instr.opcode : Instr → Nibble
  | .nop => 0x0#4
  | .ingest _ => 0x1#4
  | .poll => 0x2#4
  | .encode _ _ _ => 0x3#4
  | .validate _ _ _ _ => 0x4#4
  | .statsRead _ => 0x5#4
  | .statsClear => 0x6#4
  | .statusRead _ => 0x7#4

/-- The argument of R91, reserved bits zero. -/
def Instr.argument : Instr → Word
  | .nop => 0#32
  | .ingest b => 0#24 ++ b
  | .poll => 0#32
  | .encode t d0 d1 => t ++ d0 ++ d1 ++ 0#8
  | .validate b0 b1 b2 b3 => b0 ++ b1 ++ b2 ++ b3
  | .statsRead id => 0#29 ++ id
  | .statsClear => 0#32
  | .statusRead sel => 0#30 ++ sel

/-- The command `{op, arg}` of an operation (R70). -/
def encode (i : Instr) : Command := i.opcode ++ i.argument

/-- The instruction the decoder reads from a row of spec/opcode_table.json: bit 0 of `w` is bit 0 of the command. A
command has 36 bits, so a number of more bits is none. -/
def decodeTableWord (nbits w : Nat) : Option Instr :=
  if w % 2 ^ nbits < 2 ^ 36 then
    match decode (BitVec.ofNat 36 (w % 2 ^ nbits)) with
    | .instr i => some i
    | .illegal _ => none
  else none

/-- A row of spec/opcode_table.json. -/
structure TableRow where
  mnemonic : String
  mtch     : Command
  mask     : Command
  excluded : List Command
deriving DecidableEq, Repr

/-- 30_encoding.md, section 3: a command matches a row when `(cmd AND mask) = match` and it is not excluded. -/
def TableRow.matches (r : TableRow) (cmd : Command) : Bool :=
  decide (cmd &&& r.mask = r.mtch) && !r.excluded.contains cmd

/-- The eight rows of spec/opcode_table.json, as they stand there. -/
def opcodeTable : List TableRow :=
  [ ⟨"NOP",         0x000000000#36, 0xFFFFFFFFF#36, []⟩,
    ⟨"INGEST",      0x100000000#36, 0xFFFFFFF00#36, []⟩,
    ⟨"POLL",        0x200000000#36, 0xFFFFFFFFF#36, []⟩,
    ⟨"ENCODE",      0x300000000#36, 0xF000000FF#36, []⟩,
    ⟨"VALIDATE",    0x400000000#36, 0xF00000000#36, []⟩,
    ⟨"STATS_READ",  0x500000000#36, 0xFFFFFFFFC#36, []⟩,
    ⟨"STATS_CLEAR", 0x600000000#36, 0xFFFFFFFFF#36, []⟩,
    ⟨"STATUS_READ", 0x700000000#36, 0xFFFFFFFFC#36, [0x700000003#36]⟩ ]

/-- The row's name for an operation (R72). -/
def Instr.mnemonic : Instr → String
  | .nop => "NOP"
  | .ingest _ => "INGEST"
  | .poll => "POLL"
  | .encode _ _ _ => "ENCODE"
  | .validate _ _ _ _ => "VALIDATE"
  | .statsRead _ => "STATS_READ"
  | .statsClear => "STATS_CLEAR"
  | .statusRead _ => "STATUS_READ"

end Sys2Proof
end

