-- ==== Sys2Proof/Config.lean ====
section
/-! DEFINITION. The three parameters the spec leaves OPEN (R5, R6, R7; I2 to I4 of 93_implementation_defined.md). They
are configuration, fixed before the first reset and changed by no command (R41). The model takes them as an argument:
a state carries its `Config` in a field that no step writes, and a claim about every state is a claim for every
configuration. -/

namespace Sys2Proof

/-- What a counter does when it is incremented at its maximum (R7, `CNT_OVF`). -/
inductive CntOvf where
  | wrap      -- the result is 0
  | saturate  -- the result stays at the maximum
deriving DecidableEq, Repr

/-- The parameters of one SAM-PCV block. -/
structure Config where
  /-- `CAP`: the FrameBuffer's capacity in bytes (R5). -/
  cap : Nat
  /-- `CNT_W`: the width in bits of each statistics counter (R6). -/
  cntW : Nat
  /-- `CNT_OVF`: what an increment at the top of the range gives (R7). -/
  cntOvf : CntOvf
deriving DecidableEq, Repr

/-- The constraints `4 <= CAP <= 2^32 - 1` (R5) and `1 <= CNT_W <= 32` (R6). -/
abbrev Config.Legal (c : Config) : Prop :=
  4 ≤ c.cap ∧ c.cap ≤ 0xFFFFFFFF ∧ 1 ≤ c.cntW ∧ c.cntW ≤ 32

/-- The greatest value of a counter, `2^CNT_W - 1` (R7). -/
abbrev Config.cntMax (c : Config) : Nat := 2 ^ c.cntW - 1

/-- DESIGN CHOICE (unsafe, log entry 1): the parameters that `State.reset` carries. The spec leaves all three open;
CAP = 8 and CNT_W = 32 are what its test vectors use unless they say otherwise, and SATURATE is the model's own pick.
No statement rests on them: each holds for every legal configuration. -/
def Config.atReset : Config := { cap := 8, cntW := 32, cntOvf := .saturate }

end Sys2Proof
end

