-- ==== Sys2Proof/Machine/State.lean ====
section
/-! DEFINITION. The state of SAM-PCV as plain data (rule R20 of 10_state.md), with its configuration (R41) and the
interface around it: the three ports of R59 and R184, the order in which they and reset move (R60, R61, R191), and the
responses they are given (R71). -/

namespace Sys2Proof.Machine

/-- The FrameBuffer storage `mem` (R22): index and byte, indexes strictly rising. An index that is not listed holds
no known value: nothing has been written there since reset (R39, R40; log entry 2). -/
abbrev Memory := List Host.Cell

/-- The three command sources of the block (R59, R184). -/
inductive Port where
  | ingress | consumer | control
deriving DecidableEq, Repr

/-- What can make the block move: a port that presents a command, or reset, the fourth agent (R184). -/
inductive Agent where
  | port (p : Port)
  | reset
deriving DecidableEq, Repr

/-- The response codes that are produced (R75); the codes 0x8 to 0xF never are. -/
inductive ResponseCode where
  | ok | accepted | packet | empty | slip | checksumError | value | illegal
deriving DecidableEq, Repr

/-- A response: a code and 32 bits of data (R71). -/
structure Response where
  code : ResponseCode
  data : Word
deriving DecidableEq, Repr

/-- The exceptions of R171, each with the information its rule raises it with. -/
inductive Exception where
  /-- ChecksumError in the synchronizer, raised by POLL with the failed window (R134, R172). -/
  | syncChecksum (window : Word)
  /-- ChecksumError in the codec, raised by VALIDATE with the packet word (R115, R173). -/
  | codecChecksum (packet : Word)
  /-- BufferOverflow, raised by INGEST into a full buffer (R174). -/
  | bufferOverflow
  /-- IllegalCommand, raised by a command that R92 rejects (R175). -/
  | illegalCommand
deriving DecidableEq, Repr

/-- The boundary detector's state (R28). -/
inductive SyncState where
  | seeking | aligned
deriving DecidableEq, Repr

/-- A port: the commands it has still to present and the responses it has been given, both oldest first (R61, R71). -/
structure PortState where
  commands : List Command
  answered : List Response
deriving DecidableEq, Repr

/-- The state. -/
structure State where
  /-- CAP, CNT_W and CNT_OVF (R5, R6, R7); no step writes it (R41). -/
  cfg : Config
  /-- FrameBuffer storage, indexes `0 .. CAP-1` (R22). -/
  mem : Memory
  /-- Read cursor, `0 .. CAP-1` (R23). -/
  rd : Nat
  /-- Number of unread bytes, `0 .. CAP` (R24). -/
  count : Nat
  /-- Packets emitted by POLL, CNT_W bits (R30). -/
  rxPackets : Nat
  /-- Failed decode attempts of the synchronizer, CNT_W bits (R31). -/
  checksumFailures : Nat
  /-- Single-byte slips, CNT_W bits (R32). -/
  resyncEvents : Nat
  /-- Bytes dropped by the overflow policy, CNT_W bits (R33). -/
  overflowEvents : Nat
  /-- The response of the command last performed (R71); none after reset (R190). The model's own (log entry 5). -/
  response : Option Response
  /-- The ingress port (R184). -/
  ingress : PortState
  /-- The consumer port (R184). -/
  consumer : PortState
  /-- The control port (R184). -/
  control : PortState
  /-- Who moves, oldest first: the total order that R60, R61 and R191 leave open. The model's own (log entry 3). -/
  turns : List Agent
deriving DecidableEq, Repr

/-- The reasons the machine stops with a fault. The spec has none (R170). -/
inductive Fault where
  /-- Raised by POLL when a byte of its window has not been written since reset. Safe: by R39 and R40 no command
  reads such a byte, and no state that a run reaches lets POLL come here (log entry 2). The argument is the read
  cursor. -/
  | unwrittenByte (rd : Nat)
deriving DecidableEq, Repr

/-- The reasons an instruction has no meaning. -/
inductive Refusal where
  /-- Raised by `exec` for an instruction that is not modelled. Safe. No instruction of this model is one. -/
  | notModelled (mnemonic : String)
deriving DecidableEq, Repr

/-- A port that presents nothing and has been given nothing. -/
def PortState.quiet : PortState := { commands := [], answered := [] }

/-- The block after reset with the parameters `c` (R40, R190): an empty buffer, SEEKING, all counters 0, and `mem`
without a known value. No command is presented yet and no agent has a turn (log entries 2, 3 and 5). -/
def State.resetWith (c : Config) : State :=
  { cfg := c, mem := [], rd := 0, count := 0, rxPackets := 0, checksumFailures := 0, resyncEvents := 0,
    overflowEvents := 0, response := none, ingress := .quiet, consumer := .quiet, control := .quiet, turns := [] }

/-- The machine right after reset, with the parameters of log entry 1. -/
def State.reset : State := State.resetWith Config.atReset

end Sys2Proof.Machine
end

