-- ==== Sys2Proof/Machine/Flags.lean ====
section
/-! DEFINITION. The status values that are functions of the state and the counter increment. SAM-PCV has no flag
register (R29 of 10_state.md): what a program can see is `sync_state`, the response code and, at the block's edge, the
level output `aligned`. -/

namespace Sys2Proof.Machine

/-- `sync_state = (count >= 4) ? ALIGNED : SEEKING` (R28). -/
def State.syncState (s : State) : SyncState := if 4 ≤ s.count then .aligned else .seeking

/-- The encoding 0 SEEKING, 1 ALIGNED (R28). -/
def SyncState.toWord : SyncState → Word
  | .seeking => 0#32
  | .aligned => 1#32

/-- The level output `aligned = (sync_state = ALIGNED)` (R29). -/
def State.alignedOutput (s : State) : Bool := decide (s.syncState = .aligned)

/-- `inc(c)` of R12: add one below the maximum; at the maximum wrap to 0 or stay, as CNT_OVF says. -/
def inc (cfg : Config) (c : Nat) : Nat :=
  if c < cfg.cntMax then c + 1
  else match cfg.cntOvf with
    | .wrap => 0
    | .saturate => cfg.cntMax

/-- `n` increments one after the other. The claims about several events count with it. -/
def incTimes (cfg : Config) : Nat → Nat → Nat
  | 0, c => c
  | n + 1, c => incTimes cfg n (inc cfg c)

/-- The 4-bit encoding of a response code (R75). -/
def ResponseCode.bits : ResponseCode → Nibble
  | .ok => 0x0#4
  | .accepted => 0x1#4
  | .packet => 0x2#4
  | .empty => 0x3#4
  | .slip => 0x4#4
  | .checksumError => 0x5#4
  | .value => 0x6#4
  | .illegal => 0x7#4

/-- A response as it leaves the block: 36 bits, the code in [35:32] and the data in [31:0] (R71). -/
def Response.word (r : Response) : BitVec 36 := r.code.bits ++ r.data

end Sys2Proof.Machine
end

