-- ==== Sys2Proof/Machine/Operands.lean ====
section
/-! DEFINITION. The operand forms: the packet word and its fields (R76, R77, R79, R118 of 30_encoding.md and
40_codec.md), the message types (R80), and the values that the counter ids and status selectors name (R37, R38 of
10_state.md). -/

namespace Sys2Proof.Machine

/-- `pack(b0, b1, b2, b3) = {b0, b1, b2, b3}` (R79). -/
def pack (b0 b1 b2 b3 : Byte) : Word := b0 ++ b1 ++ b2 ++ b3

/-- Byte 0 of a packet word, bits [31:24] (R79). -/
def byte0 (w : Word) : Byte := w.extractLsb' 24 8
/-- Byte 1 of a packet word, bits [23:16] (R79). -/
def byte1 (w : Word) : Byte := w.extractLsb' 16 8
/-- Byte 2 of a packet word, bits [15:8] (R79). -/
def byte2 (w : Word) : Byte := w.extractLsb' 8 8
/-- Byte 3 of a packet word, bits [7:0] (R79). -/
def byte3 (w : Word) : Byte := w.extractLsb' 0 8

/-- `unpack(w)`, in wire order (R79, R51). -/
def unpack (w : Word) : List Byte := [byte0 w, byte1 w, byte2 w, byte3 w]

/-- The checksum that bytes 0 to 2 of a packet word call for (R78, R110). -/
def crcOfWord (w : Word) : Byte := crc8 (byte0 w) (byte1 w) (byte2 w)

/-- R113 on a packet word. -/
def validWord (w : Word) : Bool := valid (byte0 w) (byte1 w) (byte2 w) (byte3 w)

/-- The packet word with byte 3 replaced by the computed checksum, `{w[31:8], c}` (R115). -/
def correctedWord (w : Word) : Word := pack (byte0 w) (byte1 w) (byte2 w) (crcOfWord w)

/-- A byte as 32 bits of response data, `zext_32` (R10). -/
def zextByte (b : Byte) : Word := 0#24 ++ b

/-- The eight message types (R80). -/
inductive MessageType where
  | button | led | power | display | debugCode | debugText | system | extended
deriving DecidableEq, Repr

/-- The code of a message type, bits 7 to 5 of `type_flags` (R80). -/
def MessageType.code : MessageType → BitVec 3
  | .button => 0b000#3
  | .led => 0b001#3
  | .power => 0b010#3
  | .display => 0b011#3
  | .debugCode => 0b100#3
  | .debugText => 0b101#3
  | .system => 0b110#3
  | .extended => 0b111#3

/-- The message type of a 3-bit code; every code is defined (R80). -/
def messageType (c : BitVec 3) : MessageType :=
  if c = 0b000#3 then .button else if c = 0b001#3 then .led else if c = 0b010#3 then .power
  else if c = 0b011#3 then .display else if c = 0b100#3 then .debugCode else if c = 0b101#3 then .debugText
  else if c = 0b110#3 then .system else .extended

/-- The decoded view of a packet word (R118). -/
structure Packet where
  type     : BitVec 3
  flags    : BitVec 5
  data0    : Byte
  data1    : Byte
  checksum : Byte
deriving DecidableEq, Repr

/-- `(type = w[31:29], flags = w[28:24], data0 = w[23:16], data1 = w[15:8], checksum = w[7:0])` (R118, R79, R77). -/
def packetOfWord (w : Word) : Packet :=
  { type := w.extractLsb' 29 3, flags := w.extractLsb' 24 5, data0 := w.extractLsb' 16 8, data1 := w.extractLsb' 8 8,
    checksum := w.extractLsb' 0 8 }

/-- The counter that an id names (R37); ids 4 to 7 name none. -/
def State.counter (s : State) (id : BitVec 3) : Option Nat :=
  match id.toNat with
  | 0 => some s.rxPackets
  | 1 => some s.checksumFailures
  | 2 => some s.resyncEvents
  | 3 => some s.overflowEvents
  | _ => none

/-- The value that a status selector names (R38); selector 3 names none. -/
def State.status (s : State) (sel : BitVec 2) : Option Word :=
  match sel.toNat with
  | 0 => some (BitVec.ofNat 32 s.count)
  | 1 => some (BitVec.ofNat 32 s.cfg.cap)
  | 2 => some s.syncState.toWord
  | _ => none

end Sys2Proof.Machine
end

