-- ==== Sys2Proof/Machine/Ops.lean ====
section
/-! DEFINITION. The operations that the meanings share: reading and writing the FrameBuffer storage, moving its cursors
(R22 to R27 of 10_state.md), giving a response (R11), raising an exception (R171 of 60_exceptions.md), reset (R190 of
70_reset_and_hazards.md), and a port's turn (R61, R71). -/

namespace Sys2Proof.Machine

/-- The byte at an index, or none where nothing has been written since reset (R39). -/
def Memory.read : Memory → Nat → Option Byte
  | [], _ => none
  | (i, b) :: m, a => if i = a then some b else Memory.read m a

/-- Write one byte, keeping the indexes strictly rising. -/
def Memory.write : Memory → Nat → Byte → Memory
  | [], a, v => [(a, v)]
  | (i, b) :: m, a, v =>
    if a < i then (a, v) :: (i, b) :: m
    else if a = i then (a, v) :: m
    else (i, b) :: Memory.write m a v

/-- The canonical form: indexes strictly rising. An unlisted index reads as no value, so no entry can equal what an
unlisted index reads as. -/
def Memory.wf : Memory → Bool
  | [] => true
  | [_] => true
  | (i, _) :: (j, b) :: m => decide (i < j) && Memory.wf ((j, b) :: m)

/-- The index `(rd + k) mod CAP` (R26, R54). -/
def State.ringIndex (s : State) (k : Nat) : Nat := (s.rd + k) % s.cfg.cap

/-- The write cursor `wr = (rd + count) mod CAP` (R25). -/
def State.wr (s : State) : Nat := s.ringIndex s.count

/-- The byte at `mem[(rd + k) mod CAP]`. -/
def State.byteAt (s : State) (k : Nat) : Option Byte := Memory.read s.mem (s.ringIndex k)

/-- The abstract view `Buf` (R27): the unread bytes, oldest first. -/
def State.buf (s : State) : List Byte := (List.range s.count).filterMap s.byteAt

/-- The window (R134): the four oldest unread bytes as a packet word, every index taken mod CAP (R54). -/
def State.window (s : State) : Option Word :=
  match s.byteAt 0, s.byteAt 1, s.byteAt 2, s.byteAt 3 with
  | some b0, some b1, some b2, some b3 => some (pack b0 b1 b2 b3)
  | _, _, _, _ => none

/-- The buffer is full, `count = CAP` (R131). -/
def State.full (s : State) : Bool := decide (s.count = s.cfg.cap)

/-- Remove the `k` oldest bytes: `rd <- (rd + k) mod CAP; count <- count - k` (R23, R24). -/
def State.advance (k : Nat) (s : State) : State := { s with rd := s.ringIndex k, count := s.count - k }

/-- The overflow policy's drop (R132): when the buffer is full, exactly the oldest byte goes. -/
def State.makeRoom (s : State) : State := if s.full then s.advance 1 else s

/-- Append a byte at the write cursor (R25, R131). -/
def State.append (b : Byte) (s : State) : State :=
  { s with mem := Memory.write s.mem s.wr b, count := s.count + 1 }

/-- `respond(code, data)` (R11, R71). -/
def State.respond (code : ResponseCode) (data : Word) (s : State) : State :=
  { s with response := some { code := code, data := data } }

/-- `rx_packets <- inc(rx_packets)` (R30). -/
def State.countPacket (s : State) : State := { s with rxPackets := inc s.cfg s.rxPackets }

/-- `checksum_failures` and `resync_events`, incremented together by a slip (R31, R32, R137). -/
def State.countSlip (s : State) : State :=
  { s with checksumFailures := inc s.cfg s.checksumFailures, resyncEvents := inc s.cfg s.resyncEvents }

/-- `overflow_events <- inc(overflow_events)` (R33). -/
def State.countOverflow (s : State) : State := { s with overflowEvents := inc s.cfg s.overflowEvents }

/-- Taking an exception: the row of R171's table. Nothing is saved, no mode changes and nothing is redirected (R180):
the exception is recorded by the response and, for the synchronizer's own, by its counters. There is no return (R181). -/
def State.raise (e : Exception) (s : State) : State :=
  match e with
  | .syncChecksum w => s.countSlip.respond .slip (zextByte (byte0 w))
  | .codecChecksum w => s.respond .checksumError (correctedWord w)
  | .bufferOverflow => s.countOverflow.respond .accepted 1#32
  | .illegalCommand => s.respond .illegal 0#32

/-- `STATS_CLEAR`'s write: the four counters, all in one step (R152). -/
def State.clearCounters (s : State) : State :=
  { s with rxPackets := 0, checksumFailures := 0, resyncEvents := 0, overflowEvents := 0 }

/-- Reset (R190): the block's state goes to the values of R40 and no response is given. The parameters stay (R41); the
ports and the order of turns are outside the block. -/
def State.applyReset (s : State) : State :=
  { s with mem := [], rd := 0, count := 0, rxPackets := 0, checksumFailures := 0, resyncEvents := 0,
           overflowEvents := 0, response := none }

/-- The port of a name (R184). -/
def State.port (s : State) : Port → PortState
  | .ingress => s.ingress
  | .consumer => s.consumer
  | .control => s.control

/-- Replace one port's state. -/
def State.setPort (p : Port) (v : PortState) (s : State) : State :=
  match p with
  | .ingress => { s with ingress := v }
  | .consumer => { s with consumer := v }
  | .control => { s with control := v }

/-- Take a port's oldest command off its sequence, leaving `rest` (R61). The command has no response yet. -/
def State.accept (p : Port) (rest : List Command) (s : State) : State :=
  { s.setPort p { s.port p with commands := rest } with response := none }

/-- Hand the response of the command just performed to the port that presented it (R71). -/
def State.deliver (p : Port) (s : State) : State :=
  s.setPort p { s.port p with answered := (s.port p).answered ++ s.response.toList }

/-- Use up the first turn. -/
def State.spendTurn (rest : List Agent) (s : State) : State := { s with turns := rest }

/-- Apply `f` to the next state of an outcome; a stop stays as it is. -/
def mapNext (f : State → State) : Host.Outcome State Fault Refusal → Host.Outcome State Fault Refusal
  | .next s => .next (f s)
  | .fault r => .fault r
  | .refused r => .refused r

end Sys2Proof.Machine
end

