-- ==== Sys2Proof/Machine/Codec.lean ====
section
/-! DEFINITION. The codec family of 40_codec.md: ENCODE (R114) and VALIDATE (R115). Both are pure (R116): they read no
state and write none but their response. -/

namespace Sys2Proof.Machine

/-- ENCODE (R114): `c = crc8(t, d0, d1); respond(PACKET, pack(t, d0, d1, c))`. It always succeeds. -/
def execEncode (t d0 d1 : Byte) (s : State) : Host.Outcome State Fault Refusal :=
  .next (s.respond .packet (pack t d0 d1 (crc8 t d0 d1)))

/-- VALIDATE (R115): PACKET with the word if its checksum is right, else ChecksumError with the corrected word. No
counter changes (R116, R173). -/
def execValidate (b0 b1 b2 b3 : Byte) (s : State) : Host.Outcome State Fault Refusal :=
  .next (if valid b0 b1 b2 b3 then s.respond .packet (pack b0 b1 b2 b3)
         else s.raise (.codecChecksum (pack b0 b1 b2 b3)))

end Sys2Proof.Machine
end

