-- ==== Sys2Proof/Machine/Control.lean ====
section
/-! DEFINITION. The control family of 42_control.md: NOP (R150), STATS_READ (R151), STATS_CLEAR (R152) and STATUS_READ
(R153). None is privileged (R183). -/

namespace Sys2Proof.Machine

/-- NOP (R150): `respond(OK, 0)`. -/
def execNop (s : State) : Host.Outcome State Fault Refusal := .next (s.respond .ok 0#32)

/-- STATS_READ (R151): the counter an id names, zero-extended; a reserved id is ILLEGAL (R74). The read clears
nothing. -/
def execStatsRead (id : BitVec 3) (s : State) : Host.Outcome State Fault Refusal :=
  .next (match s.counter id with
    | some v => s.respond .value (BitVec.ofNat 32 v)
    | none => s.raise .illegalCommand)

/-- STATS_CLEAR (R152): all four counters to 0, `respond(OK, 0)`. -/
def execStatsClear (s : State) : Host.Outcome State Fault Refusal := .next (s.clearCounters.respond .ok 0#32)

/-- STATUS_READ (R153): the value a selector names; the reserved selector is ILLEGAL (R74). -/
def execStatusRead (sel : BitVec 2) (s : State) : Host.Outcome State Fault Refusal :=
  .next (match s.status sel with
    | some v => s.respond .value v
    | none => s.raise .illegalCommand)

end Sys2Proof.Machine
end

