-- ==== Sys2Proof/Machine/Synchronizer.lean ====
section
/-! DEFINITION. The synchronizer family of 41_synchronizer.md: INGEST (R131 to R133) and POLL (R134 to R138). -/

namespace Sys2Proof.Machine

/-- INGEST (R131): when the buffer is full the oldest byte is dropped, which is counted and reported (R132, R174); the
new byte is always appended (R133). -/
def execIngest (b : Byte) (s : State) : Host.Outcome State Fault Refusal :=
  .next (if s.full then (s.makeRoom.append b).raise .bufferOverflow
         else (s.makeRoom.append b).respond .accepted 0#32)

/-- POLL (R134): EMPTY with fewer than 4 bytes (R135); a valid window is emitted and consumed (R136); an invalid one
costs exactly its oldest byte (R137). One POLL makes at most one attempt (R138). -/
def execPoll (s : State) : Host.Outcome State Fault Refusal :=
  if s.count < 4 then .next (s.respond .empty 0#32)
  else match s.window with
    | none => .fault (.unwrittenByte s.rd)
    | some w =>
      .next (if validWord w then ((s.advance 4).countPacket).respond .packet w
             else (s.advance 1).raise (.syncChecksum w))

end Sys2Proof.Machine
end

