-- ==== Sys2Proof/Machine/Dispatch.lean ====
section
/-! DEFINITION. One arm per operation of rule R72. -/

namespace Sys2Proof.Machine

def exec (i : Instr) (s : State) : Host.Outcome State Fault Refusal :=
  match i with
  | .nop => Sys2Proof.Machine.execNop s
  | .ingest b => Sys2Proof.Machine.execIngest b s
  | .poll => Sys2Proof.Machine.execPoll s
  | .encode t d0 d1 => Sys2Proof.Machine.execEncode t d0 d1 s
  | .validate b0 b1 b2 b3 => Sys2Proof.Machine.execValidate b0 b1 b2 b3 s
  | .statsRead id => Sys2Proof.Machine.execStatsRead id s
  | .statsClear => Sys2Proof.Machine.execStatsClear s
  | .statusRead sel => Sys2Proof.Machine.execStatusRead sel s

end Sys2Proof.Machine
end

