-- ==== Sys2Proof/Machine/Perform.lean ====
section
/-! DEFINITION. Performing one command, a port's turn, and sequences of commands: what Step.lean calls (R13, R61, R92),
and the pseudo-instructions of R94 and R95 (30_encoding.md). -/

namespace Sys2Proof.Machine

/-- One command on the block (R13): the operation it decodes to, or IllegalCommand (R92, R175, R177). -/
def perform (c : Command) (s : State) : Host.Outcome State Fault Refusal :=
  match decode c with
  | .instr i => exec i s
  | .illegal _ => .next (s.raise .illegalCommand)

/-- A port's turn: it presents its oldest command, which is performed and answered in this one step (R55, R61, R71,
R196). A port that has nothing to present lets its turn pass. -/
def servePort (p : Port) (s : State) : Host.Outcome State Fault Refusal :=
  match (s.port p).commands with
  | [] => .next s
  | c :: cs => mapNext (State.deliver p) (perform c (s.accept p cs))

/-- Commands one after the other, each on the state the one before it left (R60). -/
def performAll : List Command → State → Host.Outcome State Fault Refusal
  | [], s => .next s
  | c :: cs, s =>
    match perform c s with
    | .next t => performAll cs t
    | .fault r => .fault r
    | .refused r => .refused r

/-- The responses of commands performed one after the other (R71), oldest first. -/
def responsesOf : List Command → State → List Response
  | [], _ => []
  | c :: cs, s =>
    match perform c s with
    | .next t => t.response.toList ++ responsesOf cs t
    | .fault _ => []
    | .refused _ => []

/-- `INGESTS b0, ..., b(n-1)`: one INGEST per byte (R94). -/
def ingests (bs : List Byte) : List Instr := bs.map .ingest

/-- `INGESTPKT t, d0, d1`: the four bytes of the valid packet (R95). -/
def ingestPkt (t d0 d1 : Byte) : List Instr := ingests [t, d0, d1, crc8 t d0 d1]

end Sys2Proof.Machine
end

