-- ==== Sys2Proof/Machine/Step.lean ====
section
/-! DEFINITION. One step: the next turn of the total order of rule R60 (20_memory.md) is a port's command (R13) or
reset (R190). SAM-PCV has no program counter and fetches nothing (R35, R65): commands come from the ports. -/

namespace Sys2Proof.Machine

/-- One step. With no turn left nothing is presented and nothing changes. -/
def step (s : State) : Host.Outcome State Fault Refusal :=
  match s.turns with
  | [] => .next s
  | .reset :: rest => .next (s.spendTurn rest).applyReset
  | .port p :: rest => servePort p (s.spendTurn rest)

/-- `s` with the command `w` at the head of the control port and the next turn given to that port, so that the very next
step performs it (log entry 8). -/
def State.withFetchWord (s : State) (nbits w : Nat) : State :=
  { s with
    control := { s.control with commands := BitVec.ofNat 36 (w % 2 ^ nbits) :: s.control.commands },
    turns := .port .control :: s.turns }

end Sys2Proof.Machine
end

