-- ==== Sys2Proof/Machine/Abstract.lean ====
section
/-! DEFINITION. The same block written over the abstract view `Buf` alone, as rule R27 (10_state.md) says a model may
be: a statement holds the stored machine against it. Beside it, what the claims about runs count: the ingested bytes
and the responses of one kind. -/

namespace Sys2Proof.Machine

/-- The block over `Buf` (R27): the unread bytes oldest first, the parameters and the four counters. -/
structure Abstract where
  cfg              : Config
  buf              : List Byte
  rxPackets        : Nat
  checksumFailures : Nat
  resyncEvents     : Nat
  overflowEvents   : Nat
deriving DecidableEq, Repr

/-- The abstract view of a state (R27). -/
def State.abs (s : State) : Abstract :=
  { cfg := s.cfg, buf := s.buf, rxPackets := s.rxPackets, checksumFailures := s.checksumFailures,
    resyncEvents := s.resyncEvents, overflowEvents := s.overflowEvents }

/-- A response from its code and data. -/
def answer (code : ResponseCode) (data : Word) : Response := { code := code, data := data }

/-- INGEST over `Buf` (R27): append one byte, first removing `Buf[0]` when `|Buf| = CAP`. -/
def Abstract.ingest (b : Byte) (a : Abstract) : Abstract × Response :=
  if a.buf.length = a.cfg.cap then
    ({ a with buf := a.buf.tail ++ [b], overflowEvents := inc a.cfg a.overflowEvents }, answer .accepted 1#32)
  else ({ a with buf := a.buf ++ [b] }, answer .accepted 0#32)

/-- POLL over `Buf` (R27): inspect `Buf[0..3]` and remove 4 bytes or 1 from the front. -/
def Abstract.poll (a : Abstract) : Abstract × Response :=
  match a.buf with
  | b0 :: b1 :: b2 :: b3 :: rest =>
    if b3 = crc8 b0 b1 b2 then
      ({ a with buf := rest, rxPackets := inc a.cfg a.rxPackets }, answer .packet (pack b0 b1 b2 b3))
    else
      ({ a with buf := b1 :: b2 :: b3 :: rest, checksumFailures := inc a.cfg a.checksumFailures,
                resyncEvents := inc a.cfg a.resyncEvents }, answer .slip (zextByte b0))
  | _ => (a, answer .empty 0#32)

/-- STATS_READ over the abstract view (R151, R37). -/
def Abstract.statsRead (id : BitVec 3) (a : Abstract) : Response :=
  match id.toNat with
  | 0 => answer .value (BitVec.ofNat 32 a.rxPackets)
  | 1 => answer .value (BitVec.ofNat 32 a.checksumFailures)
  | 2 => answer .value (BitVec.ofNat 32 a.resyncEvents)
  | 3 => answer .value (BitVec.ofNat 32 a.overflowEvents)
  | _ => answer .illegal 0#32

/-- STATUS_READ over the abstract view (R153, R38). -/
def Abstract.statusRead (sel : BitVec 2) (a : Abstract) : Response :=
  match sel.toNat with
  | 0 => answer .value (BitVec.ofNat 32 a.buf.length)
  | 1 => answer .value (BitVec.ofNat 32 a.cfg.cap)
  | 2 => answer .value (if 4 ≤ a.buf.length then 1#32 else 0#32)
  | _ => answer .illegal 0#32

/-- One operation over the abstract view: the view after it and its response. -/
def Abstract.exec (i : Instr) (a : Abstract) : Abstract × Response :=
  match i with
  | .nop => (a, answer .ok 0#32)
  | .ingest b => a.ingest b
  | .poll => a.poll
  | .encode t d0 d1 => (a, answer .packet (pack t d0 d1 (crc8 t d0 d1)))
  | .validate b0 b1 b2 b3 =>
    (a, if b3 = crc8 b0 b1 b2 then answer .packet (pack b0 b1 b2 b3)
        else answer .checksumError (pack b0 b1 b2 (crc8 b0 b1 b2)))
  | .statsRead id => (a, a.statsRead id)
  | .statsClear =>
    ({ a with rxPackets := 0, checksumFailures := 0, resyncEvents := 0, overflowEvents := 0 }, answer .ok 0#32)
  | .statusRead sel => (a, a.statusRead sel)

/-- The bytes that a sequence of commands ingests (R62). -/
def ingestedBytes (cs : List Command) : List Byte :=
  cs.filterMap fun c =>
    match decode c with
    | .instr (.ingest b) => some b
    | _ => none

/-- The packet words that the POLLs of a sequence of commands emit (R136), oldest first. -/
def emittedPackets : List Command → State → List Word
  | [], _ => []
  | c :: cs, s =>
    match perform c s with
    | .next t =>
      (match decode c, t.response with
        | .instr .poll, some r => if r.code = .packet then [r.data] else []
        | _, _ => []) ++ emittedPackets cs t
    | .fault _ => []
    | .refused _ => []

/-- How many responses carry a code. -/
def countCode (code : ResponseCode) (rs : List Response) : Nat := rs.countP (fun r => decide (r.code = code))

/-- How many responses report a dropped byte: ACCEPTED with data bit 0 set (R174). -/
def countDrops (rs : List Response) : Nat := rs.countP (fun r => decide (r = answer .accepted 1#32))

end Sys2Proof.Machine
end

