-- ==== Sys2Proof/Safety.lean ====
section
/-! DEFINITION. What a safe run is, in the terms that claims use: the invariant of R26 (10_state.md) with the bounds of
R5, R6, R23, R24 and R34, and R170's "never stops the block". -/

namespace Sys2Proof.Machine

/-- The invariant of the stored state. `unread` is what R39 and R40 ask for: every unread byte has been written. -/
structure State.WF (s : State) : Prop where
  /-- R5, R6. -/
  cfg : s.cfg.Legal
  /-- `mem` keeps its canonical form. -/
  mem : Memory.wf s.mem = true
  /-- R22: the indexes are `0 .. CAP-1`. -/
  memBound : ∀ c ∈ s.mem, c.1 < s.cfg.cap
  /-- R26: `0 <= rd < CAP`. -/
  rd : s.rd < s.cfg.cap
  /-- R26: `0 <= count <= CAP`. -/
  count : s.count ≤ s.cfg.cap
  /-- R26, R39: the unread bytes are bytes of `mem`. -/
  unread : ∀ k, k < s.count → (s.byteAt k).isSome = true
  /-- R6, R20: a counter has CNT_W bits. -/
  rxPackets : s.rxPackets ≤ s.cfg.cntMax
  checksumFailures : s.checksumFailures ≤ s.cfg.cntMax
  resyncEvents : s.resyncEvents ≤ s.cfg.cntMax
  overflowEvents : s.overflowEvents ≤ s.cfg.cntMax

/-- A run of `n` steps that meets no fault and no refusal (R170). -/
def SafeFor : Nat → State → Prop
  | 0, _ => True
  | n + 1, s => ∃ t, step s = .next t ∧ SafeFor n t

end Sys2Proof.Machine
end

