-- ==== Sys2Proof/Certificates/Slice0/Obligations.lean ====
section
/-! DEFINITION. The statements about SAM-PCV. Each names the rule of spec/ it formalises. None rests on a value the
model chose but where it says so: a statement holds for every legal configuration, order of turns and storage. -/

open Sys2Proof Sys2Proof.Machine

/-! ### Encoding (30_encoding.md) -/

/-- Decode and encode agree: every well-formed operation, with every operand value R91 admits, is read back from its
command (R70, R72, R91, R92). -/
def Obligations.DecodeAfterEncode : Prop :=
  ∀ i : Instr, i.wellFormed = true → decode (encode i) = .instr i

/-- Each operation has one command only: a command that decodes to an operation is that operation's encoding, and its
operands are well-formed (R74: no reserved bit is ignored). -/
def Obligations.EncodeAfterDecode : Prop :=
  ∀ (c : Command) (i : Instr), decode c = .instr i → i.wellFormed = true ∧ encode i = c

/-- R92 with R73 and R74, the argument fields read off R91: decoding is total, and a command is ILLEGAL exactly when its
op is 0x8 or more, a reserved argument bit is set, a counter id is 4 to 7, or a selector is 3. -/
def Obligations.IllegalExactlyWhenReserved : Prop :=
  ∀ c : Command, (∃ r, decode c = .illegal r) ↔
    8 ≤ (c.extractLsb' 32 4).toNat
    ∨ (c.extractLsb' 32 4 = 0x0#4 ∧ c.extractLsb' 0 32 ≠ 0#32)
    ∨ (c.extractLsb' 32 4 = 0x1#4 ∧ c.extractLsb' 8 24 ≠ 0#24)
    ∨ (c.extractLsb' 32 4 = 0x2#4 ∧ c.extractLsb' 0 32 ≠ 0#32)
    ∨ (c.extractLsb' 32 4 = 0x3#4 ∧ c.extractLsb' 0 8 ≠ 0#8)
    ∨ (c.extractLsb' 32 4 = 0x5#4 ∧ (c.extractLsb' 3 29 ≠ 0#29 ∨ 4 ≤ (c.extractLsb' 0 3).toNat))
    ∨ (c.extractLsb' 32 4 = 0x6#4 ∧ c.extractLsb' 0 32 ≠ 0#32)
    ∨ (c.extractLsb' 32 4 = 0x7#4 ∧ (c.extractLsb' 2 30 ≠ 0#30 ∨ c.extractLsb' 0 2 = 3#2))

/-- The decoder against spec/opcode_table.json: a command that decodes to an operation matches that operation's row and
no other, and a command that is ILLEGAL matches no row. -/
def Obligations.DecoderFollowsOpcodeTable : Prop :=
  (∀ (c : Command) (i : Instr), decode c = .instr i →
    (opcodeTable.filter (fun r => r.matches c)).map TableRow.mnemonic = [i.mnemonic]) ∧
  (∀ (c : Command) (r : IllegalReason), decode c = .illegal r → opcodeTable.filter (fun r => r.matches c) = [])

/-- R72 and R91: where each operand of each operation stands in the command, reserved bits zero. -/
def Obligations.OperandsStandWhereR91Says : Prop :=
  decode (0x0#4 ++ 0#32) = .instr .nop ∧
  (∀ b : Byte, decode (0x1#4 ++ (0#24 ++ b)) = .instr (.ingest b)) ∧
  decode (0x2#4 ++ 0#32) = .instr .poll ∧
  (∀ t d0 d1 : Byte, decode (0x3#4 ++ (t ++ d0 ++ d1 ++ 0#8)) = .instr (.encode t d0 d1)) ∧
  (∀ b0 b1 b2 b3 : Byte, decode (0x4#4 ++ (b0 ++ b1 ++ b2 ++ b3)) = .instr (.validate b0 b1 b2 b3)) ∧
  (∀ id : BitVec 3, id.toNat < 4 → decode (0x5#4 ++ (0#29 ++ id)) = .instr (.statsRead id)) ∧
  decode (0x6#4 ++ 0#32) = .instr .statsClear ∧
  (∀ sel : BitVec 2, sel.toNat < 3 → decode (0x7#4 ++ (0#30 ++ sel)) = .instr (.statusRead sel))

/-- Commands written out from R70, R72 and R91, one or more of each family, and what each decodes to (the commands of
95_test_vectors.md). -/
def Obligations.WrittenCommandsDecode : Prop :=
  decode 0x10000006B#36 = .instr (.ingest 0x6B#8) ∧
  decode 0x200000000#36 = .instr .poll ∧
  decode 0x3E0123400#36 = .instr (.encode 0xE0#8 0x12#8 0x34#8) ∧
  decode 0x420F0008E#36 = .instr (.validate 0x20#8 0xF0#8 0x00#8 0x8E#8) ∧
  decode 0x500000003#36 = .instr (.statsRead 3#3) ∧
  decode 0x700000002#36 = .instr (.statusRead 2#2) ∧
  decode 0x9FFFFFFFF#36 = .illegal .reservedOp ∧
  decode 0x100000100#36 = .illegal .reservedBits

/-- R71 and R75: a response is its 4-bit code above its 32 bits of data, the codes are those of R75, and the codes 0x8 to
0xF are never produced. -/
def Obligations.ResponseWordLayout : Prop :=
  (∀ r : Response, r.word.extractLsb' 32 4 = r.code.bits ∧ r.word.extractLsb' 0 32 = r.data) ∧
  (∀ c : ResponseCode, c.bits.toNat < 8) ∧
  [ResponseCode.ok, .accepted, .packet, .empty, .slip, .checksumError, .value, .illegal].map ResponseCode.bits
    = [0x0#4, 0x1#4, 0x2#4, 0x3#4, 0x4#4, 0x5#4, 0x6#4, 0x7#4]

/-- R79, R77, R118 and R80: a packet word is its four bytes, byte 0 in bits [31:24]; each field of its decoded view stands
at the bits R79 gives, so the type is the top 3 bits and the flags are the bottom 5 bits of byte 0; and the eight type codes
name the eight types, one each. -/
def Obligations.PacketWordFields : Prop :=
  (∀ w : Word,
    unpack w = [w.extractLsb' 24 8, w.extractLsb' 16 8, w.extractLsb' 8 8, w.extractLsb' 0 8] ∧
    packetOfWord w =
      { type := w.extractLsb' 29 3, flags := w.extractLsb' 24 5, data0 := w.extractLsb' 16 8,
        data1 := w.extractLsb' 8 8, checksum := w.extractLsb' 0 8 }) ∧
  (∀ b0 b1 b2 b3 : Byte, pack b0 b1 b2 b3 = b0 ++ b1 ++ b2 ++ b3 ∧ unpack (pack b0 b1 b2 b3) = [b0, b1, b2, b3] ∧
    packetOfWord (pack b0 b1 b2 b3) =
      { type := b0.extractLsb' 5 3, flags := b0.extractLsb' 0 5, data0 := b1, data1 := b2, checksum := b3 }) ∧
  (∀ w : Word, pack (byte0 w) (byte1 w) (byte2 w) (byte3 w) = w) ∧
  (∀ c : BitVec 3, (messageType c).code = c) ∧ (∀ t : MessageType, messageType t.code = t) ∧
  [MessageType.button, .led, .power, .display, .debugCode, .debugText, .system, .extended].map MessageType.code
    = [0b000#3, 0b001#3, 0b010#3, 0b011#3, 0b100#3, 0b101#3, 0b110#3, 0b111#3]

/-! ### The checksum (40_codec.md) -/

/-- R111: crc8 is linear in its 24 input bits, it is 0 on zero bytes, so the all-zero packet is valid, and it equals the
table-driven form with the table of 95_test_vectors.md, section 2.1. -/
def Obligations.CrcLinearAndTableDriven : Prop :=
  (∀ a0 a1 a2 b0 b1 b2 : Byte,
    crc8 (a0 ^^^ b0) (a1 ^^^ b1) (a2 ^^^ b2) = crc8 a0 a1 a2 ^^^ crc8 b0 b1 b2) ∧
  crc8 0#8 0#8 0#8 = 0#8 ∧ valid 0#8 0#8 0#8 0#8 = true ∧
  (∀ c b : Byte, crcTable[(c ^^^ b).toNat]? = some (crcByte c b).toNat) ∧
  (∀ i : Byte, crcTable[i.toNat]? = some (crcSeq [i]).toNat)

/-- R112 and R113: the loop over four bytes ends at 0 exactly when the fourth is the crc8 of the first three, which is
when the packet is valid; exactly one value of byte 3 makes it so. -/
def Obligations.CrcResidueIsZero : Prop :=
  ∀ b0 b1 b2 : Byte, crcSeq [b0, b1, b2, crc8 b0 b1 b2] = 0#8 ∧
    (∀ b3 : Byte, crcSeq [b0, b1, b2, b3] = 0#8 ↔ b3 = crc8 b0 b1 b2) ∧
    (∀ b3 : Byte, valid b0 b1 b2 b3 = true ↔ b3 = crc8 b0 b1 b2) ∧
    ∃ b3 : Byte, valid b0 b1 b2 b3 = true ∧ ∀ x : Byte, valid b0 b1 b2 x = true → x = b3

/-- A flip of any one of the 32 bits of a valid packet word makes it invalid. The spec says so of the checksum byte
(R115, corner cases); for the other three bytes it follows from R110. -/
def Obligations.EverySingleBitFlipIsCaught : Prop :=
  ∀ (w : Word) (k : Nat), k < 32 → validWord w = true → validWord (w ^^^ (1#32 <<< k)) = false

/-- R119: the checksums of the source's four test inputs by R110; the four printed values are invalid. -/
def Obligations.SourceVectorsByTheAlgorithm : Prop :=
  crc8 0x01#8 0x00#8 0x00#8 = 0x6B#8 ∧ crc8 0x40#8 0x00#8 0x00#8 = 0x86#8 ∧
  crc8 0xC0#8 0x00#8 0x00#8 = 0x8D#8 ∧ crc8 0x20#8 0xF0#8 0x00#8 = 0x57#8 ∧
  valid 0x01#8 0x00#8 0x00#8 0x55#8 = false ∧ valid 0x40#8 0x00#8 0x00#8 0x8C#8 = false ∧
  valid 0xC0#8 0x00#8 0x00#8 0x8B#8 = false ∧ valid 0x20#8 0xF0#8 0x00#8 0x8E#8 = false

/-! ### The codec family (40_codec.md) -/

/-- R114: ENCODE answers PACKET with the three bytes and their crc8, for every operand and in every state, and writes
nothing else; the same command with a checksum byte that is not zero is ILLEGAL. -/
def Obligations.EncodeAnswersThePacket : Prop :=
  ∀ (t d0 d1 : Byte) (s : State),
    exec (.encode t d0 d1) s = .next { s with response := some ⟨.packet, t ++ d0 ++ d1 ++ crc8 t d0 d1⟩ } ∧
    perform (0x3#4 ++ (t ++ d0 ++ d1 ++ 0#8)) s = exec (.encode t d0 d1) s ∧
    ∀ x : Byte, x ≠ 0#8 →
      perform (0x3#4 ++ (t ++ d0 ++ d1 ++ x)) s = .next { s with response := some ⟨.illegal, 0#32⟩ }

/-- R115 and R173: VALIDATE answers PACKET with the word when byte 3 is the crc8 of the others, and otherwise
CHECKSUM_ERROR with that crc8 in byte 3; it is never ILLEGAL and writes nothing else, no counter among it. -/
def Obligations.ValidateChecksThePacket : Prop :=
  ∀ (b0 b1 b2 b3 : Byte) (s : State),
    (b3 = crc8 b0 b1 b2 →
      exec (.validate b0 b1 b2 b3) s = .next { s with response := some ⟨.packet, b0 ++ b1 ++ b2 ++ b3⟩ }) ∧
    (b3 ≠ crc8 b0 b1 b2 →
      exec (.validate b0 b1 b2 b3) s
        = .next { s with response := some ⟨.checksumError, b0 ++ b1 ++ b2 ++ crc8 b0 b1 b2⟩ }) ∧
    perform (0x4#4 ++ (b0 ++ b1 ++ b2 ++ b3)) s = exec (.validate b0 b1 b2 b3) s

/-- R117: VALIDATE of the word that ENCODE answered, performed after it, answers PACKET with that same word, and the
word unpacks to the three bytes. -/
def Obligations.ValidateAcceptsWhatEncodeMade : Prop :=
  ∀ (t d0 d1 : Byte) (s u : State) (w : Word),
    exec (.encode t d0 d1) s = .next u → u.response = some ⟨.packet, w⟩ →
    exec (.validate (byte0 w) (byte1 w) (byte2 w) (byte3 w)) u = .next { u with response := some ⟨.packet, w⟩ } ∧
    byte0 w = t ∧ byte1 w = d0 ∧ byte2 w = d1

/-- R116: ENCODE and VALIDATE read no state and write none but their response; the response depends on the operands
alone, and any operation performed after one of them does what it would have done without it. -/
def Obligations.CodecIsPure : Prop :=
  ∀ i : Instr, ((∃ t d0 d1, i = .encode t d0 d1) ∨ (∃ b0 b1 b2 b3, i = .validate b0 b1 b2 b3)) →
    ∃ r : Response, ∀ s : State, exec i s = .next { s with response := some r } ∧
      ∀ (j : Instr) (t : State), exec i s = .next t → exec j t = exec j s

/-! ### The synchronizer family (41_synchronizer.md) -/

/-- R131: INGEST in every state, as its pseudocode says: when the buffer is full the read cursor moves past the oldest
byte, overflow_events is incremented and data bit 0 of ACCEPTED is 1; the byte is written at the write cursor, and sync_state
follows count. With a reserved argument bit set the command is ILLEGAL and nothing changes. -/
def Obligations.IngestStoresTheByte : Prop :=
  ∀ (b : Byte) (s : State),
    (s.count ≠ s.cfg.cap →
      exec (.ingest b) s = .next
        { s with mem := Memory.write s.mem ((s.rd + s.count) % s.cfg.cap) b, count := s.count + 1,
                 response := some ⟨.accepted, 0#32⟩ }) ∧
    (s.count = s.cfg.cap →
      exec (.ingest b) s = .next
        { s with mem := Memory.write s.mem (((s.rd + 1) % s.cfg.cap + (s.count - 1)) % s.cfg.cap) b,
                 rd := (s.rd + 1) % s.cfg.cap, count := s.count - 1 + 1,
                 overflowEvents := inc s.cfg s.overflowEvents, response := some ⟨.accepted, 1#32⟩ }) ∧
    (∀ t, exec (.ingest b) s = .next t → (t.syncState = .aligned ↔ 4 ≤ t.count)) ∧
    perform (0x1#4 ++ (0#24 ++ b)) s = exec (.ingest b) s ∧
    ∀ x : BitVec 24, x ≠ 0#24 →
      perform (0x1#4 ++ (x ++ b)) s = .next { s with response := some ⟨.illegal, 0#32⟩ }

/-- INGEST's frame: it stores one byte, at the write cursor as it stands after any drop, and every other byte of the
FrameBuffer reads as before; the other three counters, the parameters, the ports and the turns are unchanged, and so is
overflow_events unless the buffer was full. -/
def Obligations.IngestFrame : Prop :=
  ∀ (b : Byte) (s t : State), exec (.ingest b) s = .next t →
    Memory.read t.mem s.makeRoom.wr = some b ∧
    (∀ a, a ≠ s.makeRoom.wr → Memory.read t.mem a = Memory.read s.mem a) ∧
    t.rxPackets = s.rxPackets ∧ t.checksumFailures = s.checksumFailures ∧ t.resyncEvents = s.resyncEvents ∧
    (s.count ≠ s.cfg.cap → t.overflowEvents = s.overflowEvents ∧ t.rd = s.rd) ∧
    t.cfg = s.cfg ∧ t.ingress = s.ingress ∧ t.consumer = s.consumer ∧ t.control = s.control ∧ t.turns = s.turns

/-- R132: when the buffer is full INGEST discards exactly the oldest byte and then appends its own; otherwise it only
appends. The discarded byte changes neither resync_events nor checksum_failures. The premise rules out states that no
run reaches (R26). -/
def Obligations.IngestDropsOnlyTheOldest : Prop :=
  ∀ (b : Byte) (s : State), s.WF → ∃ t, exec (.ingest b) s = .next t ∧
    (s.count = s.cfg.cap → s.buf ≠ [] ∧ t.buf = s.buf.tail ++ [b] ∧ t.count = s.cfg.cap ∧
      t.overflowEvents = inc s.cfg s.overflowEvents) ∧
    (s.count < s.cfg.cap → t.buf = s.buf ++ [b] ∧ t.count = s.count + 1 ∧
      t.overflowEvents = s.overflowEvents) ∧
    t.resyncEvents = s.resyncEvents ∧ t.checksumFailures = s.checksumFailures

/-- R135: with fewer than 4 bytes buffered POLL answers EMPTY and changes nothing; the state is SEEKING. -/
def Obligations.PollWithTooFewBytesIsEmpty : Prop :=
  ∀ s : State, s.count < 4 →
    exec .poll s = .next { s with response := some ⟨.empty, 0#32⟩ } ∧ s.syncState = .seeking

/-- R134, with R136 and R137: with 4 bytes or more POLL reads `mem[rd .. rd+3]`, every index mod CAP, and completes: a
valid window is emitted, the cursor moves by 4 and rx_packets is incremented; an invalid one costs exactly its oldest
byte, which the response carries, and checksum_failures and resync_events are incremented; sync_state follows
count. With a reserved argument bit set the command is ILLEGAL and nothing changes. The premise rules out states that no
run reaches (R26, R39). -/
def Obligations.PollTestsTheWindow : Prop :=
  ∀ s : State, s.WF →
    (4 ≤ s.count → ∃ b0 b1 b2 b3 : Byte,
      Memory.read s.mem s.rd = some b0 ∧ Memory.read s.mem ((s.rd + 1) % s.cfg.cap) = some b1 ∧
      Memory.read s.mem ((s.rd + 2) % s.cfg.cap) = some b2 ∧ Memory.read s.mem ((s.rd + 3) % s.cfg.cap) = some b3 ∧
      (b3 = crc8 b0 b1 b2 → exec .poll s = .next
        { s with rd := (s.rd + 4) % s.cfg.cap, count := s.count - 4, rxPackets := inc s.cfg s.rxPackets,
                 response := some ⟨.packet, b0 ++ b1 ++ b2 ++ b3⟩ }) ∧
      (b3 ≠ crc8 b0 b1 b2 → exec .poll s = .next
        { s with rd := (s.rd + 1) % s.cfg.cap, count := s.count - 1,
                 checksumFailures := inc s.cfg s.checksumFailures, resyncEvents := inc s.cfg s.resyncEvents,
                 response := some ⟨.slip, 0#24 ++ b0⟩ })) ∧
    (s.count < 4 → exec .poll s = .next { s with response := some ⟨.empty, 0#32⟩ }) ∧
    (∀ t, exec .poll s = .next t → (t.syncState = .aligned ↔ 4 ≤ t.count)) ∧
    perform (0x2#4 ++ 0#32) s = exec .poll s ∧
    ∀ x : Word, x ≠ 0#32 → perform (0x2#4 ++ x) s = .next { s with response := some ⟨.illegal, 0#32⟩ }

/-- POLL's frame: it stores no byte, and overflow_events, the parameters, the ports and the turns are unchanged. -/
def Obligations.PollFrame : Prop :=
  ∀ s t : State, exec .poll s = .next t →
    (∀ a, Memory.read t.mem a = Memory.read s.mem a) ∧ t.overflowEvents = s.overflowEvents ∧ t.cfg = s.cfg ∧
    t.ingress = s.ingress ∧ t.consumer = s.consumer ∧ t.control = s.control ∧ t.turns = s.turns

/-- The model's one fault (log entry 2, a DESIGN CHOICE for R39 and R40): POLL stops exactly when a byte of its window
has not been written since reset; no other operation stops at all. -/
def Obligations.OnlyPollOfUnwrittenByteFaults : Prop :=
  ∀ (i : Instr) (s : State), (¬ ∃ t, exec i s = .next t) ↔
    (i = .poll ∧ 4 ≤ s.count ∧ ∃ k, k < 4 ∧ Memory.read s.mem ((s.rd + k) % s.cfg.cap) = none)

/-- R139: the transitions of the boundary detector, per command and for reset. -/
def Obligations.BoundaryDetectorTransitions : Prop :=
  (∀ (b : Byte) (s t : State), s.WF → exec (.ingest b) s = .next t →
    (s.syncState = .seeking → (t.count = 4 → t.syncState = .aligned) ∧ (t.count < 4 → t.syncState = .seeking) ∧
      t.count ≤ 4) ∧
    (s.syncState = .aligned → t.syncState = .aligned)) ∧
  (∀ s t : State, exec .poll s = .next t →
    (s.syncState = .seeking → t.syncState = .seeking ∧ t.response = some ⟨.empty, 0#32⟩) ∧
    (s.syncState = .aligned → ∃ r, t.response = some r ∧
      ((r.code = .packet ∧ (t.syncState = .aligned ↔ 4 ≤ s.count - 4)) ∨
       (r.code = .slip ∧ (t.syncState = .aligned ↔ 4 ≤ s.count - 1))))) ∧
  (∀ (i : Instr) (s t : State), i ≠ .poll → (∀ b, i ≠ .ingest b) → exec i s = .next t → t.syncState = s.syncState) ∧
  (∀ s : State, s.applyReset.syncState = .seeking)

/-- R138: from 4 bytes or more, with no byte ingested in between, at most `count - 3` POLLs answer SLIP and the next one
answers PACKET or EMPTY. -/
def Obligations.PollsUntilPacketOrEmpty : Prop :=
  ∀ s : State, s.WF → 4 ≤ s.count → ∃ k t u, k ≤ s.count - 3 ∧
    performAll (List.replicate k (encode .poll)) s = .next t ∧
    countCode .slip (responsesOf (List.replicate k (encode .poll)) s) = k ∧
    exec .poll t = .next u ∧ ∃ r, u.response = some r ∧ (r.code = .packet ∨ r = ⟨.empty, 0#32⟩)

/-- R143: when the buffer holds `k` garbage bytes and then a valid packet, and no window that starts at a garbage byte
is valid, `k` POLLs slip, the next one emits the packet, and resync_events is incremented exactly `k` times. -/
def Obligations.RecoveryAfterGarbage : Prop :=
  ∀ (s : State) (g rest : List Byte) (b0 b1 b2 b3 : Byte), s.WF →
    s.buf = g ++ [b0, b1, b2, b3] ++ rest → b3 = crc8 b0 b1 b2 →
    (∀ j, j < g.length → ∀ x0 x1 x2 x3 l, s.buf.drop j = x0 :: x1 :: x2 :: x3 :: l → x3 ≠ crc8 x0 x1 x2) →
    ∃ t u, performAll (List.replicate g.length (encode .poll)) s = .next t ∧
      responsesOf (List.replicate g.length (encode .poll)) s = g.map (fun x => ⟨.slip, 0#24 ++ x⟩) ∧
      exec .poll t = .next u ∧ u.response = some ⟨.packet, b0 ++ b1 ++ b2 ++ b3⟩ ∧ u.buf = rest ∧
      u.resyncEvents = incTimes s.cfg g.length s.resyncEvents

/-- R141: a window that passes the check is emitted though it is not a transmitted packet: with
`Buf = [D9, 01, 00, 00, 6B]` POLL emits 0xD9010000 (type SYSTEM, flags 0x19), leaves `[6B]` and counts no resync. -/
def Obligations.FalseLockIsEmitted : Prop :=
  ∀ s : State, s.WF → s.buf = [0xD9#8, 0x01#8, 0x00#8, 0x00#8, 0x6B#8] →
    ∃ t, exec .poll s = .next t ∧ t.response = some ⟨.packet, 0xD9010000#32⟩ ∧ t.buf = [0x6B#8] ∧
      t.resyncEvents = s.resyncEvents ∧
      messageType (packetOfWord 0xD9010000#32).type = .system ∧ (packetOfWord 0xD9010000#32).flags = 0x19#5

/-- R144: after any number of INGESTs with no POLL between, `Buf` is the last CAP bytes of what was buffered and
ingested, `count` is CAP at most, and overflow_events was incremented once per dropped byte. From an empty buffer `n`
bytes drop `n - CAP`. No command stops. -/
def Obligations.OverflowKeepsTheLastCapBytes : Prop :=
  ∀ (s : State) (bs : List Byte), s.WF → ∃ t,
    performAll ((ingests bs).map encode) s = .next t ∧ t.WF ∧
    t.buf = (s.buf ++ bs).drop (s.count + bs.length - s.cfg.cap) ∧
    t.count = min s.cfg.cap (s.count + bs.length) ∧
    t.overflowEvents = incTimes s.cfg (s.count + bs.length - s.cfg.cap) s.overflowEvents

/-- R133 and R94: every INGEST of `INGESTS b0, ..., b(n-1)` is ACCEPTED, so the accepted count is `n`. -/
def Obligations.EveryIngestIsAccepted : Prop :=
  ∀ (s : State) (bs : List Byte),
    (∃ t, performAll ((ingests bs).map encode) s = .next t) ∧
    (responsesOf ((ingests bs).map encode) s).length = bs.length ∧
    countCode .accepted (responsesOf ((ingests bs).map encode) s) = bs.length

/-- R95: `INGESTPKT t, d0, d1` into an empty buffer feeds one valid packet: the next POLL emits it. -/
def Obligations.IngestPktIsEmittedByPoll : Prop :=
  ∀ (s : State) (t d0 d1 : Byte), s.WF → s.count = 0 → ∃ u v,
    performAll ((ingestPkt t d0 d1).map encode) s = .next u ∧
    exec .poll u = .next v ∧ v.response = some ⟨.packet, t ++ d0 ++ d1 ++ crc8 t d0 d1⟩ ∧ v.count = 0

/-- R62 and R140, over any commands from any state that meets the invariant: they complete; what is buffered is the end of
the stream, the bytes buffered before and then those ingested; and every packet a POLL emits is four consecutive bytes of
that stream. From reset, where nothing is buffered, the stream is the ingested bytes. -/
def Obligations.PacketsAreConsecutiveIngestedBytes : Prop :=
  ∀ (s : State) (cs : List Command), s.WF → ∃ t, performAll cs s = .next t ∧
    t.buf <:+ s.buf ++ ingestedBytes cs ∧
    ∀ w ∈ emittedPackets cs s, unpack w <:+: s.buf ++ ingestedBytes cs

/-- R142, over any commands from any state that meets the invariant: they complete; bytes buffered + bytes ingested
= 4 * packets emitted + slips + bytes dropped + count; and with no STATS_CLEAR each counter was incremented once per event it
counts, so within its maximum it grew by that number. From reset all of these start at 0. -/
def Obligations.BytesAreAccountedFor : Prop :=
  ∀ (s : State) (cs : List Command), s.WF → ∃ t, performAll cs s = .next t ∧
    let packets := (emittedPackets cs s).length
    let slips := countCode .slip (responsesOf cs s)
    let drops := countDrops (responsesOf cs s)
    s.count + (ingestedBytes cs).length = 4 * packets + slips + drops + t.count ∧
    ((∀ x ∈ cs, decode x ≠ .instr .statsClear) →
      (t.rxPackets = incTimes s.cfg packets s.rxPackets ∧
        t.resyncEvents = incTimes s.cfg slips s.resyncEvents ∧
        t.checksumFailures = incTimes s.cfg slips s.checksumFailures ∧
        t.overflowEvents = incTimes s.cfg drops s.overflowEvents) ∧
      (s.rxPackets + packets ≤ s.cfg.cntMax → t.rxPackets = s.rxPackets + packets) ∧
      (s.resyncEvents + slips ≤ s.cfg.cntMax → t.resyncEvents = s.resyncEvents + slips) ∧
      (s.checksumFailures + slips ≤ s.cfg.cntMax → t.checksumFailures = s.checksumFailures + slips) ∧
      (s.overflowEvents + drops ≤ s.cfg.cntMax → t.overflowEvents = s.overflowEvents + drops))

/-- R142: checksum_failures and resync_events, once equal, stay equal under every step, whatever CNT_OVF is. -/
def Obligations.SlipCountersStayEqual : Prop :=
  ∀ s t : State, step s = .next t → s.checksumFailures = s.resyncEvents → t.checksumFailures = t.resyncEvents

/-- R27: the machine over `(mem, rd, count)` refines the one over `Buf`: every operation completes and does to `Buf`,
the counters and the response what the abstract one does. -/
def Obligations.StoredBufferRefinesAbstractBuffer : Prop :=
  ∀ (i : Instr) (s : State), s.WF → i.wellFormed = true → ∃ t, exec i s = .next t ∧ t.WF ∧
    t.abs = (Abstract.exec i s.abs).1 ∧ t.response = some (Abstract.exec i s.abs).2

/-- R27, R38 and R39: two states with the same parameters, the same `Buf` and the same counters give the same responses
to every command sequence: neither the read cursor nor a stale byte can be observed. -/
def Obligations.SameBufSameResponses : Prop :=
  ∀ (s t : State) (cs : List Command), s.WF → t.WF → s.abs = t.abs → responsesOf cs s = responsesOf cs t

/-! ### The control family and the counters (42_control.md, 10_state.md) -/

/-- R150: NOP answers OK 0 and writes nothing else; with an argument bit set it is ILLEGAL. -/
def Obligations.NopAnswersOk : Prop :=
  ∀ s : State, exec .nop s = .next { s with response := some ⟨.ok, 0#32⟩ } ∧
    perform 0x000000000#36 s = exec .nop s ∧
    ∀ x : Word, x ≠ 0#32 → perform (0x0#4 ++ x) s = .next { s with response := some ⟨.illegal, 0#32⟩ }

/-- R151 with R37: STATS_READ answers VALUE with the counter its id names, zero-extended, and writes nothing else; ids 4
to 7 and reserved bits are ILLEGAL. -/
def Obligations.StatsReadAnswersTheCounter : Prop :=
  ∀ s : State,
    exec (.statsRead 0#3) s = .next { s with response := some ⟨.value, BitVec.ofNat 32 s.rxPackets⟩ } ∧
    exec (.statsRead 1#3) s = .next { s with response := some ⟨.value, BitVec.ofNat 32 s.checksumFailures⟩ } ∧
    exec (.statsRead 2#3) s = .next { s with response := some ⟨.value, BitVec.ofNat 32 s.resyncEvents⟩ } ∧
    exec (.statsRead 3#3) s = .next { s with response := some ⟨.value, BitVec.ofNat 32 s.overflowEvents⟩ } ∧
    (∀ id : BitVec 3, id.toNat < 4 → perform (0x5#4 ++ (0#29 ++ id)) s = exec (.statsRead id) s) ∧
    (∀ id : BitVec 3, 4 ≤ id.toNat →
      perform (0x5#4 ++ (0#29 ++ id)) s = .next { s with response := some ⟨.illegal, 0#32⟩ }) ∧
    (∀ (x : BitVec 29) (id : BitVec 3), x ≠ 0#29 →
      perform (0x5#4 ++ (x ++ id)) s = .next { s with response := some ⟨.illegal, 0#32⟩ }) ∧
    (s.WF → (BitVec.ofNat 32 s.rxPackets).toNat = s.rxPackets ∧
      (BitVec.ofNat 32 s.checksumFailures).toNat = s.checksumFailures ∧
      (BitVec.ofNat 32 s.resyncEvents).toNat = s.resyncEvents ∧
      (BitVec.ofNat 32 s.overflowEvents).toNat = s.overflowEvents)

/-- R152: STATS_CLEAR sets the four counters to 0 in one step, answers OK 0 and leaves `mem`, `rd`, `count` and all the
rest as they were; with an argument bit set it is ILLEGAL and clears nothing. -/
def Obligations.StatsClearZeroesTheCounters : Prop :=
  ∀ s : State,
    exec .statsClear s = .next { s with rxPackets := 0, checksumFailures := 0, resyncEvents := 0, overflowEvents := 0,
                                        response := some ⟨.ok, 0#32⟩ } ∧
    perform 0x600000000#36 s = exec .statsClear s ∧
    ∀ x : Word, x ≠ 0#32 → perform (0x6#4 ++ x) s = .next { s with response := some ⟨.illegal, 0#32⟩ }

/-- R153 with R38 and R28: STATUS_READ answers VALUE with count, CAP or sync_state, zero-extended, and writes nothing
else; selector 3 and reserved bits are ILLEGAL. -/
def Obligations.StatusReadAnswersTheStatus : Prop :=
  ∀ s : State,
    exec (.statusRead 0#2) s = .next { s with response := some ⟨.value, BitVec.ofNat 32 s.count⟩ } ∧
    exec (.statusRead 1#2) s = .next { s with response := some ⟨.value, BitVec.ofNat 32 s.cfg.cap⟩ } ∧
    exec (.statusRead 2#2) s = .next { s with response := some ⟨.value, if 4 ≤ s.count then 1#32 else 0#32⟩ } ∧
    (∀ sel : BitVec 2, sel.toNat < 3 → perform (0x7#4 ++ (0#30 ++ sel)) s = exec (.statusRead sel) s) ∧
    perform 0x700000003#36 s = .next { s with response := some ⟨.illegal, 0#32⟩ } ∧
    (∀ (x : BitVec 30) (sel : BitVec 2), x ≠ 0#30 →
      perform (0x7#4 ++ (x ++ sel)) s = .next { s with response := some ⟨.illegal, 0#32⟩ }) ∧
    (s.WF → (BitVec.ofNat 32 s.count).toNat = s.count ∧ (BitVec.ofNat 32 s.cfg.cap).toNat = s.cfg.cap)

/-- R28 and R29: sync_state is ALIGNED exactly when 4 bytes or more are buffered, and the level output follows it. -/
def Obligations.AlignedOutputFollowsCount : Prop :=
  ∀ s : State, (s.syncState = .aligned ↔ 4 ≤ s.count) ∧ (s.syncState = .seeking ↔ s.count < 4) ∧
    (s.alignedOutput = true ↔ s.syncState = .aligned) ∧
    SyncState.seeking.toWord = 0#32 ∧ SyncState.aligned.toWord = 1#32

/-- R12: below the maximum a counter grows by one; at the maximum it goes to 0 under WRAP and stays under SATURATE. -/
def Obligations.IncrementAtTheTop : Prop :=
  ∀ c : Config, c.Legal →
    (∀ v, v < 2 ^ c.cntW - 1 → inc c v = v + 1) ∧
    (c.cntOvf = .wrap → inc c (2 ^ c.cntW - 1) = 0) ∧
    (c.cntOvf = .saturate → inc c (2 ^ c.cntW - 1) = 2 ^ c.cntW - 1) ∧
    ∀ v, inc c v ≤ 2 ^ c.cntW - 1

/-- R30 to R34: each counter changes in exactly the operation that owns it, once, or by STATS_CLEAR: rx_packets by a POLL
that answers PACKET, checksum_failures and resync_events by a POLL that answers SLIP, overflow_events by an INGEST into a
full buffer. -/
def Obligations.CountersChangeOnlyByTheirOwner : Prop :=
  ∀ (i : Instr) (s t : State) (r : Response), exec i s = .next t → t.response = some r →
    t.rxPackets = (if i = .statsClear then 0
      else if i = .poll ∧ r.code = .packet then inc s.cfg s.rxPackets else s.rxPackets) ∧
    t.checksumFailures = (if i = .statsClear then 0
      else if i = .poll ∧ r.code = .slip then inc s.cfg s.checksumFailures else s.checksumFailures) ∧
    t.resyncEvents = (if i = .statsClear then 0
      else if i = .poll ∧ r.code = .slip then inc s.cfg s.resyncEvents else s.resyncEvents) ∧
    t.overflowEvents = (if i = .statsClear then 0
      else if (∃ b, i = .ingest b) ∧ s.count = s.cfg.cap then inc s.cfg s.overflowEvents else s.overflowEvents)

/-- R23 and R24: only POLL and an INGEST into a full buffer move the read cursor, by 4 or 1 mod CAP, and what each does
to count. -/
def Obligations.CursorAndCountMoves : Prop :=
  ∀ (i : Instr) (s t : State) (r : Response), s.WF → exec i s = .next t → t.response = some r →
    (i = .poll ∧ r.code = .packet ∧ t.rd = (s.rd + 4) % s.cfg.cap ∧ t.count + 4 = s.count) ∨
    (i = .poll ∧ r.code = .slip ∧ t.rd = (s.rd + 1) % s.cfg.cap ∧ t.count + 1 = s.count) ∨
    ((∃ b, i = .ingest b) ∧ s.count = s.cfg.cap ∧ t.rd = (s.rd + 1) % s.cfg.cap ∧ t.count = s.cfg.cap) ∨
    ((∃ b, i = .ingest b) ∧ s.count < s.cfg.cap ∧ t.rd = s.rd ∧ t.count = s.count + 1) ∨
    ((∀ b, i ≠ .ingest b) ∧ r.code ≠ .slip ∧ (i = .poll → r.code = .empty) ∧ t.rd = s.rd ∧ t.count = s.count)

/-- R22: only INGEST and POLL touch `mem`: INGEST writes one byte at the write cursor, POLL depends on nothing in it but
the window and writes nothing, and the other operations do the same whatever it holds. -/
def Obligations.OnlyIngestAndPollTouchMem : Prop :=
  (∀ (i : Instr) (s t : State) (m : Memory), i ≠ .poll → (∀ b, i ≠ .ingest b) → exec i s = .next t →
    t.mem = s.mem ∧ exec i { s with mem := m } = .next { t with mem := m }) ∧
  (∀ (b : Byte) (s t : State), exec (.ingest b) s = .next t → t.mem = Memory.write s.mem s.makeRoom.wr b) ∧
  (∀ (s t : State) (m : Memory), exec .poll s = .next t →
    (∀ k, k < 4 → Memory.read m ((s.rd + k) % s.cfg.cap) = Memory.read s.mem ((s.rd + k) % s.cfg.cap)) →
    t.mem = s.mem ∧ exec .poll { s with mem := m } = .next { t with mem := m })

/-- R57: NOP, ENCODE, VALIDATE, STATS_READ and STATUS_READ are idempotent: performed again at once, each gives the same
response and the same state. INGEST is not: two INGESTs of a byte append it twice. -/
def Obligations.ReadsAreIdempotent : Prop :=
  (∀ (i : Instr) (s t : State), i ≠ .poll → i ≠ .statsClear → (∀ b, i ≠ .ingest b) → exec i s = .next t →
    exec i t = .next t ∧ t.abs = s.abs ∧ t.rd = s.rd) ∧
  (∀ (b : Byte) (s t u : State), s.WF → s.count + 2 ≤ s.cfg.cap → exec (.ingest b) s = .next t →
    exec (.ingest b) t = .next u → u.buf = s.buf ++ [b, b])

/-! ### Exceptions, steps and reset (60_exceptions.md, 20_memory.md, 70_reset_and_hazards.md) -/

/-- R175: a command with a reserved op, a reserved argument bit, a counter id of 4 to 7 or the selector 3 changes no state
and no counter and answers ILLEGAL 0; the command performed after it does what it would have done without it. -/
def Obligations.IllegalCommandChangesNothing : Prop :=
  ∀ (c : Command) (s : State),
    (8 ≤ (c.extractLsb' 32 4).toNat
      ∨ ((c.extractLsb' 32 4).toNat < 8 ∧ c.extractLsb' 0 32 &&& resMask (c.extractLsb' 32 4) ≠ 0#32)
      ∨ (c.extractLsb' 32 4 = 0x5#4 ∧ 4 ≤ (c.extractLsb' 0 3).toNat)
      ∨ (c.extractLsb' 32 4 = 0x7#4 ∧ c.extractLsb' 0 2 = 3#2)) →
    perform c s = .next { s with response := some ⟨.illegal, 0#32⟩ } ∧
    ∀ d : Command, perform d { s with response := some ⟨.illegal, 0#32⟩ } = perform d s

/-- R171 to R175: what each exception records: its response, its data and its counters. -/
def Obligations.ExceptionsRecordWhatR171Says : Prop :=
  ∀ (s : State) (w : Word),
    s.raise (.syncChecksum w) = { s with checksumFailures := inc s.cfg s.checksumFailures,
                                         resyncEvents := inc s.cfg s.resyncEvents,
                                         response := some ⟨.slip, 0#24 ++ w.extractLsb' 24 8⟩ } ∧
    s.raise (.codecChecksum w) = { s with response := some ⟨.checksumError, w.extractLsb' 8 24 ++
      crc8 (w.extractLsb' 24 8) (w.extractLsb' 16 8) (w.extractLsb' 8 8)⟩ } ∧
    s.raise .bufferOverflow = { s with overflowEvents := inc s.cfg s.overflowEvents,
                                       response := some ⟨.accepted, 1#32⟩ } ∧
    s.raise .illegalCommand = { s with response := some ⟨.illegal, 0#32⟩ }

/-- A step runs the decoded command (R13, R61, R71): when the next turn is a port's and the command at the head of that
port decodes to `i`, the step takes the command off the port, is `exec i`, and hands the response to that port. -/
def Obligations.StepRunsTheDecodedCommand : Prop :=
  ∀ (s : State) (p : Port) (rest : List Agent) (c : Command) (cs : List Command) (i : Instr),
    s.turns = .port p :: rest → (s.port p).commands = c :: cs → decode c = .instr i →
    (∀ t, exec i ((s.spendTurn rest).accept p cs) = .next t → step s = .next (t.deliver p)) ∧
    (∀ f, exec i ((s.spendTurn rest).accept p cs) = .fault f → step s = .fault f) ∧
    (s.spendTurn rest).accept p cs
      = ({ s with turns := rest, response := none } : State).setPort p { s.port p with commands := cs }

/-- R92 and R175 at a step: when the command at the head of the port whose turn it is decodes to no operation, the step
answers that port ILLEGAL 0 and the block's state stays. -/
def Obligations.StepAnswersIllegalCommand : Prop :=
  ∀ (s : State) (p : Port) (rest : List Agent) (c : Command) (cs : List Command) (r : IllegalReason),
    s.turns = .port p :: rest → (s.port p).commands = c :: cs → decode c = .illegal r → ∃ t, step s = .next t ∧
      t.abs = s.abs ∧ t.mem = s.mem ∧ t.rd = s.rd ∧ t.count = s.count ∧
      (t.port p).commands = cs ∧ (t.port p).answered = (s.port p).answered ++ [⟨.illegal, 0#32⟩]

/-- The model's convention (log entry 3): with no turn left, or when the port whose turn it is presents nothing, a step
performs no command and changes nothing but the spent turn. -/
def Obligations.StepWithNothingPresented : Prop :=
  (∀ s : State, s.turns = [] → step s = .next s) ∧
  (∀ (s : State) (p : Port) (rest : List Agent), s.turns = .port p :: rest → (s.port p).commands = [] →
    step s = .next { s with turns := rest })

/-- R71: each command produces exactly one response: a port's turn with a command takes that command off the port and
adds one response to that port's, and the other two ports get none and lose none. -/
def Obligations.OneResponsePerCommand : Prop :=
  ∀ (s t : State) (p : Port) (rest : List Agent) (c : Command) (cs : List Command),
    s.turns = .port p :: rest → (s.port p).commands = c :: cs → step s = .next t →
    (∃ r, t.port p = ⟨cs, (s.port p).answered ++ [r]⟩ ∧ t.response = some r) ∧
    (∀ q, q ≠ p → t.port q = s.port q) ∧ t.turns = rest

/-- R61: over any run, the commands of each port are performed in the order the port presents them: what is left of a
port's sequence is that sequence without its first `k` commands, and the port has been given `k` responses, after those
it had. -/
def Obligations.EachPortKeepsItsOrder : Prop :=
  ∀ (n : Nat) (s t : State) (p : Port), Host.Core.run core n s = .next t →
    ∃ k rs, rs.length = k ∧ (t.port p).commands = (s.port p).commands.drop k ∧
      (t.port p).answered = (s.port p).answered ++ rs ∧ k ≤ (s.port p).commands.length

/-- R178: a full buffer with an INGEST and a POLL presented together. If the POLL goes first, the INGEST finds room and
raises nothing; if the INGEST goes first, it raises BufferOverflow. The model admits both orders. -/
def Obligations.IngestAndPollInEitherOrder : Prop :=
  ∀ (s : State) (b : Byte) (is cs : List Command), s.WF → s.count = s.cfg.cap →
    s.ingress.commands = encode (.ingest b) :: is → s.consumer.commands = encode .poll :: cs →
    (s.turns = [.port .consumer, .port .ingress] → ∃ t, Host.Core.run core 2 s = .next t ∧
      t.overflowEvents = s.overflowEvents ∧ t.ingress.answered = s.ingress.answered ++ [⟨.accepted, 0#32⟩]) ∧
    (s.turns = [.port .ingress, .port .consumer] → ∃ t, Host.Core.run core 2 s = .next t ∧
      t.overflowEvents = inc s.cfg s.overflowEvents ∧
      t.ingress.answered = s.ingress.answered ++ [⟨.accepted, 1#32⟩])

/-- R190: reset is a step of its own: it takes no command and gives no response, the buffer is empty, sync_state is
SEEKING and the counters are 0; the parameters stay, and so do the ports (log entry 5). -/
def Obligations.ResetStep : Prop :=
  ∀ (s : State) (rest : List Agent), s.turns = .reset :: rest → ∃ t, step s = .next t ∧
    t.rd = 0 ∧ t.count = 0 ∧ t.buf = [] ∧ t.syncState = .seeking ∧ t.alignedOutput = false ∧
    t.rxPackets = 0 ∧ t.checksumFailures = 0 ∧ t.resyncEvents = 0 ∧ t.overflowEvents = 0 ∧
    t.response = none ∧ t.cfg = s.cfg ∧ t.turns = rest ∧ (∀ p, t.port p = s.port p)

/-- R191: a command presented together with reset is performed entirely before the reset, or not at all: the two orders
of turns (log entries 3 and 4). In the first the command is answered and the reset follows; in the second the reset comes, the port has no
response and still has the command to present. -/
def Obligations.CommandPresentedWithReset : Prop :=
  ∀ (s : State) (p : Port) (c : Command) (cs : List Command) (rest : List Agent), s.WF →
    (s.port p).commands = c :: cs →
    (s.turns = .port p :: .reset :: rest → ∃ t r, Host.Core.run core 2 s = .next t ∧
      t.abs = (State.resetWith s.cfg).abs ∧ t.rd = 0 ∧ t.port p = ⟨cs, (s.port p).answered ++ [r]⟩) ∧
    (s.turns = .reset :: rest → ∃ t, step s = .next t ∧
      t.abs = (State.resetWith s.cfg).abs ∧ t.rd = 0 ∧ t.port p = s.port p ∧ t.response = none)

/-- R40: the values after reset, for every configuration. -/
def Obligations.StateAfterReset : Prop :=
  ∀ c : Config, (State.resetWith c).rd = 0 ∧ (State.resetWith c).count = 0 ∧ (State.resetWith c).buf = [] ∧
    (State.resetWith c).syncState = .seeking ∧ (State.resetWith c).rxPackets = 0 ∧
    (State.resetWith c).checksumFailures = 0 ∧ (State.resetWith c).resyncEvents = 0 ∧
    (State.resetWith c).overflowEvents = 0 ∧ (State.resetWith c).alignedOutput = false

/-- The invariant holds after reset, for every legal configuration, and so at `State.reset`. -/
def Obligations.ResetMeetsTheInvariant : Prop :=
  (∀ c : Config, c.Legal → (State.resetWith c).WF) ∧ State.reset.WF

/-- R26 with R5, R6, R20 and R39: every step keeps the invariant: the cursor and the count in their ranges, the storage
in canonical form within CAP, every unread byte written, every counter within CNT_W bits. -/
def Obligations.StepKeepsTheInvariant : Prop :=
  ∀ s t : State, s.WF → step s = .next t → t.WF

/-- R170: nothing stops the block: from every state that meets the invariant, any number of steps runs without a fault
or a refusal. -/
def Obligations.NothingStopsTheBlock : Prop :=
  ∀ (s : State) (n : Nat), s.WF → SafeFor n s

/-- R41 and R5: no step changes CAP, CNT_W or CNT_OVF. -/
def Obligations.ConfigurationNeverChanges : Prop :=
  ∀ (n : Nat) (s t : State), Host.Core.run core n s = .next t → t.cfg = s.cfg
end

