-- ==== Sys2Proof/Laws/Abstract.lean ====
section
/-! SUPPORT. What the abstract machine of R27 does, one spec lemma per operation on `Buf`. -/

namespace Sys2Proof.Machine

/-- POLL over `Buf`: fewer than 4 bytes, a valid window, or an invalid one. -/
theorem Abstract.poll_cases (a : Abstract) :
    (a.buf.length < 4 ∧ a.poll = (a, answer .empty 0#32)) ∨
    (∃ b0 b1 b2 b3 rest, a.buf = b0 :: b1 :: b2 :: b3 :: rest ∧ b3 = crc8 b0 b1 b2 ∧
      a.poll = ({ a with buf := rest, rxPackets := inc a.cfg a.rxPackets }, answer .packet (pack b0 b1 b2 b3))) ∨
    (∃ b0 b1 b2 b3 rest, a.buf = b0 :: b1 :: b2 :: b3 :: rest ∧ b3 ≠ crc8 b0 b1 b2 ∧
      a.poll = ({ a with buf := b1 :: b2 :: b3 :: rest, checksumFailures := inc a.cfg a.checksumFailures,
                         resyncEvents := inc a.cfg a.resyncEvents }, answer .slip (zextByte b0))) := by
  unfold Abstract.poll
  split
  · rename_i b0 b1 b2 b3 rest hb
    by_cases hv : b3 = crc8 b0 b1 b2
    · exact .inr (.inl ⟨b0, b1, b2, b3, rest, hb, hv, if_pos hv⟩)
    · exact .inr (.inr ⟨b0, b1, b2, b3, rest, hb, hv, if_neg hv⟩)
  · rename_i hb
    refine .inl ⟨?_, rfl⟩
    match h : a.buf with
    | [] => simp
    | [_] => simp
    | [_, _] => simp
    | [_, _, _] => simp
    | b0 :: b1 :: b2 :: b3 :: rest => exact absurd h (hb b0 b1 b2 b3 rest)

/-- INGEST over `Buf`. -/
theorem Abstract.ingest_of_full (b : Byte) (a : Abstract) (h : a.buf.length = a.cfg.cap) :
    a.ingest b = ({ a with buf := a.buf.tail ++ [b], overflowEvents := inc a.cfg a.overflowEvents },
      answer .accepted 1#32) := if_pos h

theorem Abstract.ingest_of_not_full (b : Byte) (a : Abstract) (h : a.buf.length ≠ a.cfg.cap) :
    a.ingest b = ({ a with buf := a.buf ++ [b] }, answer .accepted 0#32) := if_neg h

end Sys2Proof.Machine
end

