-- ==== Sys2Proof/Laws/Crc.lean ====
section
/-! SUPPORT. The checksum's building blocks are linear in the accumulator (the ground of R111 and R112). -/

namespace Sys2Proof.Machine

theorem crcShift_xor (a b : Byte) : crcShift (a ^^^ b) = crcShift a ^^^ crcShift b := by
  unfold crcShift
  rw [BitVec.msb_xor, BitVec.shiftLeft_xor_distrib]
  have h7 : ∀ x y : Byte, x ^^^ y = (x ^^^ 0x07#8) ^^^ (y ^^^ 0x07#8) := fun x y => by
    rw [BitVec.xor_assoc, ← BitVec.xor_assoc 0x07#8, BitVec.xor_comm 0x07#8 y, BitVec.xor_assoc y, BitVec.xor_self,
      BitVec.xor_zero]
  cases a.msb <;> cases b.msb
  · rfl
  · exact BitVec.xor_assoc _ _ _
  · exact (BitVec.xor_assoc _ _ _).trans ((congrArg _ (BitVec.xor_comm _ _)).trans (BitVec.xor_assoc _ _ _).symm)
  · exact h7 _ _

theorem crcShifts_xor (n : Nat) (a b : Byte) : crcShifts n (a ^^^ b) = crcShifts n a ^^^ crcShifts n b := by
  induction n generalizing a b with
  | zero => rfl
  | succ n ih => simp only [crcShifts, crcShift_xor, ih]

/-- One byte's step is the loop on the accumulator XORed with it. -/
theorem crcByte_xor (c d a b : Byte) : crcByte (c ^^^ d) (a ^^^ b) = crcByte c a ^^^ crcByte d b := by
  unfold crcByte
  rw [← crcShifts_xor]
  congr 1
  ac_rfl

/-- `crc8` as three steps. -/
theorem crc8_eq (b0 b1 b2 : Byte) : crc8 b0 b1 b2 = crcByte (crcByte (crcByte 0#8 b0) b1) b2 := rfl

end Sys2Proof.Machine
end

