-- ==== Sys2Proof/Laws/PerInstr.lean ====
section
/-! SUPPORT. Family Layout: what an instruction's command looks like, one lemma per constructor: its op field is the
operation code of R72, its argument field is the argument of R91, and its reserved argument bits are zero (R74). -/

namespace Sys2Proof.Laws.Layout

def Statement (i : Instr) : Prop :=
  (encode i).op = i.opcode ∧ (encode i).arg = i.argument ∧ i.argument &&& resMask i.opcode = 0#32

theorem op_arg (o : Nibble) (a : Word) : Command.op (o ++ a) = o ∧ Command.arg (o ++ a) = a := by
  constructor
  · unfold Command.op
    exact BitVec.extractLsb'_append_eq_left
  · unfold Command.arg
    exact BitVec.extractLsb'_append_eq_right

theorem nop : Statement .nop := ⟨(op_arg _ _).1, (op_arg _ _).2, by decide⟩

theorem ingest (b : Byte) : Statement (.ingest b) :=
  ⟨(op_arg _ _).1, (op_arg _ _).2, by
    show (0#24 ++ b) &&& (0xFFFFFF#24 ++ 0#8) = (0#24 ++ 0#8 : Word)
    rw [BitVec.and_append]; simp⟩

theorem poll : Statement .poll := ⟨(op_arg _ _).1, (op_arg _ _).2, by decide⟩

theorem encode (t d0 d1 : Byte) : Statement (.encode t d0 d1) :=
  ⟨(op_arg _ _).1, (op_arg _ _).2, by
    show (t ++ d0 ++ d1 ++ 0#8) &&& (0#24 ++ 0xFF#8) = (0#24 ++ 0#8 : Word)
    rw [BitVec.and_append]; simp⟩

theorem validate (b0 b1 b2 b3 : Byte) : Statement (.validate b0 b1 b2 b3) :=
  ⟨(op_arg _ _).1, (op_arg _ _).2, BitVec.and_zero⟩

theorem statsRead (id : BitVec 3) : Statement (.statsRead id) :=
  ⟨(op_arg _ _).1, (op_arg _ _).2, by
    show (0#29 ++ id) &&& (0x1FFFFFFF#29 ++ 0#3) = (0#29 ++ 0#3 : Word)
    rw [BitVec.and_append]; simp⟩

theorem statsClear : Statement .statsClear := ⟨(op_arg _ _).1, (op_arg _ _).2, by decide⟩

theorem statusRead (sel : BitVec 2) : Statement (.statusRead sel) :=
  ⟨(op_arg _ _).1, (op_arg _ _).2, by
    show (0#30 ++ sel) &&& (0x3FFFFFFF#30 ++ 0#2) = (0#30 ++ 0#2 : Word)
    rw [BitVec.and_append]; simp⟩

end Sys2Proof.Laws.Layout
end

