-- ==== Sys2Proof/Laws/Decode.lean ====
section
/-! SUPPORT. What the decoder answers, one lemma per operation code of R72, with the reserved bits of R91 as fields of the
argument instead of a mask. -/

namespace Sys2Proof

/-- A command is its op field above its argument (R70). -/
theorem Command.split (c : Command) : c = c.op ++ c.arg := by
  refine BitVec.eq_of_getLsbD_eq fun i hi => ?_
  rw [BitVec.getLsbD_append]
  by_cases h : i < 32
  · simp [Command.arg, h]
  · have h1 : 32 + (i - 32) = i := by omega
    have h2 : i - 32 < 4 := by omega
    simp [Command.op, h, h1, h2]

/-- A word is its upper `n` bits above its lower `m`. -/
theorem word_split (n m : Nat) (a : BitVec (n + m)) : a = a.extractLsb' m n ++ a.extractLsb' 0 m := by
  refine BitVec.eq_of_getLsbD_eq fun i hi => ?_
  rw [BitVec.getLsbD_append]
  by_cases h : i < m
  · simp [h]
  · have h1 : m + (i - m) = i := by omega
    have h2 : i - m < n := by omega
    simp [h, h1, h2]

/-- The four byte fields of a packet word (R79). -/
theorem word_bytes (b0 b1 b2 b3 : Byte) :
    (b0 ++ b1 ++ b2 ++ b3 : Word).extractLsb' 24 8 = b0 ∧ (b0 ++ b1 ++ b2 ++ b3 : Word).extractLsb' 16 8 = b1 ∧
    (b0 ++ b1 ++ b2 ++ b3 : Word).extractLsb' 8 8 = b2 ∧ (b0 ++ b1 ++ b2 ++ b3 : Word).extractLsb' 0 8 = b3 := by
  refine ⟨?_, ?_, ?_, ?_⟩ <;> refine BitVec.eq_of_getLsbD_eq fun i hi => ?_ <;>
    simp only [BitVec.getLsbD_extractLsb', BitVec.getLsbD_append]
  · have h : 24 + i - 8 - 8 - 8 = i := by omega
    simp [hi, h, show ¬ 24 + i < 8 by omega, show ¬ 24 + i - 8 < 8 by omega, show ¬ 24 + i - 8 - 8 < 8 by omega]
  · have h : 16 + i - 8 - 8 = i := by omega
    simp [hi, h, show ¬ 16 + i < 8 by omega, show ¬ 16 + i - 8 < 8 by omega]
  · have h : 8 + i - 8 = i := by omega
    simp [hi, h]
  · simp [hi]

/-- A packet word is its four byte fields (R79). -/
theorem word_of_bytes (w : Word) :
    (w.extractLsb' 24 8 ++ w.extractLsb' 16 8 ++ w.extractLsb' 8 8 ++ w.extractLsb' 0 8 : Word) = w := by
  refine BitVec.eq_of_getLsbD_eq fun i hi => ?_
  simp only [BitVec.getLsbD_extractLsb', BitVec.getLsbD_append]
  by_cases h1 : i < 8
  · simp [h1]
  · by_cases h2 : i < 16
    · simp [h1, show i - 8 < 8 by omega, show 8 + (i - 8) = i by omega]
    · by_cases h3 : i < 24
      · simp [h1, show ¬ i - 8 < 8 by omega, show i - 8 - 8 < 8 by omega, show 16 + (i - 8 - 8) = i by omega]
      · simp [h1, show ¬ i - 8 < 8 by omega, show ¬ i - 8 - 8 < 8 by omega, show i - 8 - 8 - 8 < 8 by omega,
          show 24 + (i - 8 - 8 - 8) = i by omega]

/-- Which argument bits the mask of ingest asks about. -/
theorem and_mask_ingest (a : Word) : a &&& 0xFFFFFF00#32 = 0#32 ↔ a.extractLsb' 8 24 = 0#24 := by
  constructor
  · intro h
    refine BitVec.eq_of_getLsbD_eq fun i hi => ?_
    have hm : (0xFFFFFF00#32).getLsbD (8 + i) = true :=
      (by decide : ∀ i, i < 24 → (0xFFFFFF00#32).getLsbD (8 + i) = true) i hi
    have hb := congrArg (fun v => v.getLsbD (8 + i)) h
    simp only [BitVec.getLsbD_and, hm, Bool.and_true] at hb
    simpa [hi] using hb
  · intro h
    rw [word_split 24 8 a, h]
    show (0#24 ++ _) &&& (0xFFFFFF#24 ++ 0#8) = (0#24 ++ 0#8 : Word)
    rw [BitVec.and_append]
    simp

/-- Which argument bits the mask of encode asks about. -/
theorem and_mask_encode (a : Word) : a &&& 0x000000FF#32 = 0#32 ↔ a.extractLsb' 0 8 = 0#8 := by
  constructor
  · intro h
    refine BitVec.eq_of_getLsbD_eq fun i hi => ?_
    have hm : (0x000000FF#32).getLsbD (0 + i) = true :=
      (by decide : ∀ i, i < 8 → (0x000000FF#32).getLsbD (0 + i) = true) i hi
    have hb := congrArg (fun v => v.getLsbD (0 + i)) h
    simp only [BitVec.getLsbD_and, hm, Bool.and_true] at hb
    simpa [hi] using hb
  · intro h
    rw [word_split 24 8 a, h]
    show (_ ++ 0#8) &&& (0#24 ++ 0xFF#8) = (0#24 ++ 0#8 : Word)
    rw [BitVec.and_append]
    simp

/-- Which argument bits the mask of statsRead asks about. -/
theorem and_mask_statsRead (a : Word) : a &&& 0xFFFFFFF8#32 = 0#32 ↔ a.extractLsb' 3 29 = 0#29 := by
  constructor
  · intro h
    refine BitVec.eq_of_getLsbD_eq fun i hi => ?_
    have hm : (0xFFFFFFF8#32).getLsbD (3 + i) = true :=
      (by decide : ∀ i, i < 29 → (0xFFFFFFF8#32).getLsbD (3 + i) = true) i hi
    have hb := congrArg (fun v => v.getLsbD (3 + i)) h
    simp only [BitVec.getLsbD_and, hm, Bool.and_true] at hb
    simpa [hi] using hb
  · intro h
    rw [word_split 29 3 a, h]
    show (0#29 ++ _) &&& (0x1FFFFFFF#29 ++ 0#3) = (0#29 ++ 0#3 : Word)
    rw [BitVec.and_append]
    simp

/-- Which argument bits the mask of statusRead asks about. -/
theorem and_mask_statusRead (a : Word) : a &&& 0xFFFFFFFC#32 = 0#32 ↔ a.extractLsb' 2 30 = 0#30 := by
  constructor
  · intro h
    refine BitVec.eq_of_getLsbD_eq fun i hi => ?_
    have hm : (0xFFFFFFFC#32).getLsbD (2 + i) = true :=
      (by decide : ∀ i, i < 30 → (0xFFFFFFFC#32).getLsbD (2 + i) = true) i hi
    have hb := congrArg (fun v => v.getLsbD (2 + i)) h
    simp only [BitVec.getLsbD_and, hm, Bool.and_true] at hb
    simpa [hi] using hb
  · intro h
    rw [word_split 30 2 a, h]
    show (0#30 ++ _) &&& (0x3FFFFFFF#30 ++ 0#2) = (0#30 ++ 0#2 : Word)
    rw [BitVec.and_append]
    simp

/-- The decoder on `{op, arg}` (R92). -/
theorem decode_append (o : Nibble) (a : Word) :
    decode (o ++ a) =
      match operation o a with
      | none => .illegal .reservedOp
      | some i => if a &&& resMask o = 0 then checkOperand i else .illegal .reservedBits := by
  simp only [decode, (Laws.Layout.op_arg o a).1, (Laws.Layout.op_arg o a).2]
  first | done | rfl

theorem decode_nop (a : Word) :
    decode (0x0#4 ++ a) = if a = 0#32 then .instr .nop else .illegal .reservedBits := by
  rw [decode_append]
  show (if a &&& 0xFFFFFFFF#32 = 0#32 then Decoded.instr .nop else .illegal .reservedBits) = _
  rw [show a &&& 0xFFFFFFFF#32 = a from BitVec.and_allOnes]

theorem decode_poll (a : Word) :
    decode (0x2#4 ++ a) = if a = 0#32 then .instr .poll else .illegal .reservedBits := by
  rw [decode_append]
  show (if a &&& 0xFFFFFFFF#32 = 0#32 then Decoded.instr .poll else .illegal .reservedBits) = _
  rw [show a &&& 0xFFFFFFFF#32 = a from BitVec.and_allOnes]

theorem decode_statsClear (a : Word) :
    decode (0x6#4 ++ a) = if a = 0#32 then .instr .statsClear else .illegal .reservedBits := by
  rw [decode_append]
  show (if a &&& 0xFFFFFFFF#32 = 0#32 then Decoded.instr .statsClear else .illegal .reservedBits) = _
  rw [show a &&& 0xFFFFFFFF#32 = a from BitVec.and_allOnes]

theorem decode_ingest (a : Word) :
    decode (0x1#4 ++ a) = if a.extractLsb' 8 24 = 0#24 then
      .instr (.ingest (a.extractLsb' 0 8)) else .illegal .reservedBits := by
  rw [decode_append]
  show (if a &&& 0xFFFFFF00#32 = 0#32 then Decoded.instr (.ingest (a.extractLsb' 0 8))
    else .illegal .reservedBits) = _
  simp only [and_mask_ingest]

theorem decode_encode (a : Word) :
    decode (0x3#4 ++ a) = if a.extractLsb' 0 8 = 0#8 then
      .instr (.encode (a.extractLsb' 24 8) (a.extractLsb' 16 8) (a.extractLsb' 8 8)) else .illegal .reservedBits := by
  rw [decode_append]
  show (if a &&& 0x000000FF#32 = 0#32 then Decoded.instr (.encode (a.extractLsb' 24 8) (a.extractLsb' 16 8) (a.extractLsb' 8 8))
    else .illegal .reservedBits) = _
  simp only [and_mask_encode]

theorem decode_validate (a : Word) :
    decode (0x4#4 ++ a) = .instr (.validate (a.extractLsb' 24 8) (a.extractLsb' 16 8) (a.extractLsb' 8 8)
      (a.extractLsb' 0 8)) := by
  rw [decode_append]
  show (if a &&& 0#32 = 0#32 then _ else _) = _
  rw [if_pos BitVec.and_zero]
  rfl

theorem decode_statsRead (a : Word) :
    decode (0x5#4 ++ a) = if a.extractLsb' 3 29 = 0#29 then
      (if counterIdOk (a.extractLsb' 0 3) then .instr (.statsRead (a.extractLsb' 0 3)) else .illegal .reservedCounterId)
      else .illegal .reservedBits := by
  rw [decode_append]
  show (if a &&& 0xFFFFFFF8#32 = 0#32 then
    (if counterIdOk (a.extractLsb' 0 3) then Decoded.instr (.statsRead (a.extractLsb' 0 3)) else .illegal .reservedCounterId)
    else .illegal .reservedBits) = _
  simp only [and_mask_statsRead]

theorem decode_statusRead (a : Word) :
    decode (0x7#4 ++ a) = if a.extractLsb' 2 30 = 0#30 then
      (if selectorOk (a.extractLsb' 0 2) then .instr (.statusRead (a.extractLsb' 0 2)) else .illegal .reservedSelector)
      else .illegal .reservedBits := by
  rw [decode_append]
  show (if a &&& 0xFFFFFFFC#32 = 0#32 then
    (if selectorOk (a.extractLsb' 0 2) then Decoded.instr (.statusRead (a.extractLsb' 0 2)) else .illegal .reservedSelector)
    else .illegal .reservedBits) = _
  simp only [and_mask_statusRead]

theorem decode_reservedOp (o : Nibble) (a : Word) (h : 8 ≤ o.toNat) : decode (o ++ a) = .illegal .reservedOp := by
  rw [decode_append]
  have ho : operation o a = none := by
    unfold operation
    split <;> first | omega | rfl
  rw [ho]

/-- The operation codes, one by one, and the reserved ones (R72, R73). -/
theorem op_cases (o : Nibble) :
    o = 0x0#4 ∨ o = 0x1#4 ∨ o = 0x2#4 ∨ o = 0x3#4 ∨ o = 0x4#4 ∨ o = 0x5#4 ∨ o = 0x6#4 ∨ o = 0x7#4 ∨ 8 ≤ o.toNat := by
  revert o; decide

end Sys2Proof
end

