-- ==== Sys2Proof/Laws/Memory.lean ====
section
/-! SUPPORT. What reading and writing the FrameBuffer storage do: a read after a write, the canonical form, and that the
form makes equal memories equal data. -/

namespace Sys2Proof.Machine

@[simp] theorem Memory.read_write_same (m : Memory) (a : Nat) (v : Byte) : (Memory.write m a v).read a = some v := by
  induction m with
  | nil => simp [Memory.write, Memory.read]
  | cons c m ih =>
    obtain ⟨i, b⟩ := c
    simp only [Memory.write]
    split
    · simp [Memory.read]
    · split
      · simp [Memory.read]
      · have : ¬ i = a := fun h => ‹¬ a = i› h.symm
        simp [Memory.read, this, ih]

theorem Memory.read_write_other (m : Memory) (a x : Nat) (v : Byte) (h : x ≠ a) :
    (Memory.write m a v).read x = m.read x := by
  induction m with
  | nil => simp [Memory.write, Memory.read, Ne.symm h]
  | cons c m ih =>
    obtain ⟨i, b⟩ := c
    simp only [Memory.write]
    split
    · simp [Memory.read, Ne.symm h]
    · split
      · rename_i hai
        subst hai
        simp [Memory.read, Ne.symm h]
      · simp [Memory.read, ih]

/-- Every entry after a write is the one written or was there before. -/
theorem Memory.mem_write {m : Memory} {a : Nat} {v : Byte} {c : Host.Cell} (h : c ∈ Memory.write m a v) :
    c = (a, v) ∨ c ∈ m := by
  induction m with
  | nil => simpa [Memory.write] using h
  | cons d m ih =>
    obtain ⟨i, b⟩ := d
    simp only [Memory.write] at h
    split at h
    · simpa using h
    · split at h
      · rcases List.mem_cons.mp h with h | h
        · exact .inl h
        · exact .inr (List.mem_cons_of_mem _ h)
      · rcases List.mem_cons.mp h with h | h
        · exact .inr (h ▸ List.mem_cons_self ..)
        · exact (ih h).imp id (List.mem_cons_of_mem _)

/-- The canonical form, read off a list's head: the tail has it, and every later index is greater. -/
theorem Memory.wf_cons (c : Host.Cell) (m : Memory) :
    Memory.wf (c :: m) = true ↔ (∀ d ∈ m, c.1 < d.1) ∧ Memory.wf m = true := by
  induction m generalizing c with
  | nil => simp [Memory.wf]
  | cons d m ih =>
    obtain ⟨i, b⟩ := c
    obtain ⟨j, b'⟩ := d
    simp only [Memory.wf, Bool.and_eq_true, decide_eq_true_eq]
    constructor
    · rintro ⟨hij, hm⟩
      refine ⟨fun e he => ?_, hm⟩
      rcases List.mem_cons.mp he with rfl | he
      · exact hij
      · exact Nat.lt_trans hij (((ih (j, b')).mp hm).1 e he)
    · rintro ⟨hall, hm⟩
      exact ⟨hall (j, b') (List.mem_cons_self ..), hm⟩

theorem Memory.wf_write (m : Memory) (a : Nat) (v : Byte) (h : Memory.wf m = true) :
    Memory.wf (Memory.write m a v) = true := by
  induction m with
  | nil => rfl
  | cons c m ih =>
    obtain ⟨i, b⟩ := c
    obtain ⟨hall, hm⟩ := (Memory.wf_cons _ _).mp h
    simp only [Memory.write]
    split
    · refine (Memory.wf_cons _ _).mpr ⟨fun d hd => ?_, h⟩
      rcases List.mem_cons.mp hd with rfl | hd
      · assumption
      · exact Nat.lt_trans ‹a < i› (hall d hd)
    · split
      · rename_i hai
        subst hai
        exact (Memory.wf_cons _ _).mpr ⟨hall, hm⟩
      · refine (Memory.wf_cons _ _).mpr ⟨fun d hd => ?_, ih hm⟩
        rcases Memory.mem_write hd with rfl | hd
        · show i < a
          omega
        · exact hall d hd

/-- An index below every listed one reads as no value. -/
theorem Memory.read_eq_none_of_lt (m : Memory) (a : Nat) (h : ∀ d ∈ m, a < d.1) : m.read a = none := by
  induction m with
  | nil => rfl
  | cons c m ih =>
    obtain ⟨i, b⟩ := c
    have hi : a < i := h (i, b) (List.mem_cons_self ..)
    have : ¬ i = a := by omega
    simp only [Memory.read, this, if_false]
    exact ih fun d hd => h d (List.mem_cons_of_mem _ hd)

/-- Two memories in canonical form that read alike are the same list. -/
theorem Memory.ext_of_wf (m n : Memory) (hm : Memory.wf m = true) (hn : Memory.wf n = true)
    (h : ∀ a, m.read a = n.read a) : m = n := by
  induction m generalizing n with
  | nil =>
    cases n with
    | nil => rfl
    | cons d n => have := h d.1; simp [Memory.read] at this
  | cons c m ih =>
    cases n with
    | nil => have := h c.1; simp [Memory.read] at this
    | cons d n =>
      obtain ⟨i, b⟩ := c
      obtain ⟨j, b'⟩ := d
      obtain ⟨hci, hm'⟩ := (Memory.wf_cons _ _).mp hm
      obtain ⟨hdj, hn'⟩ := (Memory.wf_cons _ _).mp hn
      have hij : i = j := by
        rcases Nat.lt_trichotomy i j with hlt | heq | hgt
        · have h1 := h i
          rw [Memory.read_eq_none_of_lt ((j, b') :: n) i (by
            intro e he
            rcases List.mem_cons.mp he with rfl | he
            · exact hlt
            · exact Nat.lt_trans hlt (hdj e he))] at h1
          simp [Memory.read] at h1
        · exact heq
        · have h1 := h j
          rw [Memory.read_eq_none_of_lt ((i, b) :: m) j (by
            intro e he
            rcases List.mem_cons.mp he with rfl | he
            · exact hgt
            · exact Nat.lt_trans hgt (hci e he))] at h1
          simp [Memory.read] at h1
      subst hij
      have hb : b = b' := by have := h i; simpa [Memory.read] using this
      subst hb
      congr 1
      refine ih n hm' hn' fun a => ?_
      by_cases ha : i = a
      · subst ha
        rw [Memory.read_eq_none_of_lt m i hci, Memory.read_eq_none_of_lt n i hdj]
      · have := h a
        simpa [Memory.read, ha] using this

end Sys2Proof.Machine
end

