-- ==== Sys2Proof/Laws/State.lean ====
section
/-! SUPPORT. What each update of State does to each field, once and for all, so that no proof unfolds a record update;
then the frames of `raise` and `makeRoom`. -/

namespace Sys2Proof.Machine

/-! `respond`. -/

@[simp] theorem State.respond_cfg (code : ResponseCode) (data : Word) (s : State) : (s.respond code data).cfg = s.cfg := rfl
@[simp] theorem State.respond_mem (code : ResponseCode) (data : Word) (s : State) : (s.respond code data).mem = s.mem := rfl
@[simp] theorem State.respond_rd (code : ResponseCode) (data : Word) (s : State) : (s.respond code data).rd = s.rd := rfl
@[simp] theorem State.respond_count (code : ResponseCode) (data : Word) (s : State) : (s.respond code data).count = s.count := rfl
@[simp] theorem State.respond_rxPackets (code : ResponseCode) (data : Word) (s : State) : (s.respond code data).rxPackets = s.rxPackets := rfl
@[simp] theorem State.respond_checksumFailures (code : ResponseCode) (data : Word) (s : State) : (s.respond code data).checksumFailures = s.checksumFailures := rfl
@[simp] theorem State.respond_resyncEvents (code : ResponseCode) (data : Word) (s : State) : (s.respond code data).resyncEvents = s.resyncEvents := rfl
@[simp] theorem State.respond_overflowEvents (code : ResponseCode) (data : Word) (s : State) : (s.respond code data).overflowEvents = s.overflowEvents := rfl
@[simp] theorem State.respond_response (code : ResponseCode) (data : Word) (s : State) : (s.respond code data).response = some { code := code, data := data } := rfl
@[simp] theorem State.respond_ingress (code : ResponseCode) (data : Word) (s : State) : (s.respond code data).ingress = s.ingress := rfl
@[simp] theorem State.respond_consumer (code : ResponseCode) (data : Word) (s : State) : (s.respond code data).consumer = s.consumer := rfl
@[simp] theorem State.respond_control (code : ResponseCode) (data : Word) (s : State) : (s.respond code data).control = s.control := rfl
@[simp] theorem State.respond_turns (code : ResponseCode) (data : Word) (s : State) : (s.respond code data).turns = s.turns := rfl

/-! `advance`. -/

@[simp] theorem State.advance_cfg (k : Nat) (s : State) : (s.advance k).cfg = s.cfg := rfl
@[simp] theorem State.advance_mem (k : Nat) (s : State) : (s.advance k).mem = s.mem := rfl
@[simp] theorem State.advance_rd (k : Nat) (s : State) : (s.advance k).rd = s.ringIndex k := rfl
@[simp] theorem State.advance_count (k : Nat) (s : State) : (s.advance k).count = s.count - k := rfl
@[simp] theorem State.advance_rxPackets (k : Nat) (s : State) : (s.advance k).rxPackets = s.rxPackets := rfl
@[simp] theorem State.advance_checksumFailures (k : Nat) (s : State) : (s.advance k).checksumFailures = s.checksumFailures := rfl
@[simp] theorem State.advance_resyncEvents (k : Nat) (s : State) : (s.advance k).resyncEvents = s.resyncEvents := rfl
@[simp] theorem State.advance_overflowEvents (k : Nat) (s : State) : (s.advance k).overflowEvents = s.overflowEvents := rfl
@[simp] theorem State.advance_response (k : Nat) (s : State) : (s.advance k).response = s.response := rfl
@[simp] theorem State.advance_ingress (k : Nat) (s : State) : (s.advance k).ingress = s.ingress := rfl
@[simp] theorem State.advance_consumer (k : Nat) (s : State) : (s.advance k).consumer = s.consumer := rfl
@[simp] theorem State.advance_control (k : Nat) (s : State) : (s.advance k).control = s.control := rfl
@[simp] theorem State.advance_turns (k : Nat) (s : State) : (s.advance k).turns = s.turns := rfl

/-! `append`. -/

@[simp] theorem State.append_cfg (b : Byte) (s : State) : (s.append b).cfg = s.cfg := rfl
@[simp] theorem State.append_mem (b : Byte) (s : State) : (s.append b).mem = Memory.write s.mem s.wr b := rfl
@[simp] theorem State.append_rd (b : Byte) (s : State) : (s.append b).rd = s.rd := rfl
@[simp] theorem State.append_count (b : Byte) (s : State) : (s.append b).count = s.count + 1 := rfl
@[simp] theorem State.append_rxPackets (b : Byte) (s : State) : (s.append b).rxPackets = s.rxPackets := rfl
@[simp] theorem State.append_checksumFailures (b : Byte) (s : State) : (s.append b).checksumFailures = s.checksumFailures := rfl
@[simp] theorem State.append_resyncEvents (b : Byte) (s : State) : (s.append b).resyncEvents = s.resyncEvents := rfl
@[simp] theorem State.append_overflowEvents (b : Byte) (s : State) : (s.append b).overflowEvents = s.overflowEvents := rfl
@[simp] theorem State.append_response (b : Byte) (s : State) : (s.append b).response = s.response := rfl
@[simp] theorem State.append_ingress (b : Byte) (s : State) : (s.append b).ingress = s.ingress := rfl
@[simp] theorem State.append_consumer (b : Byte) (s : State) : (s.append b).consumer = s.consumer := rfl
@[simp] theorem State.append_control (b : Byte) (s : State) : (s.append b).control = s.control := rfl
@[simp] theorem State.append_turns (b : Byte) (s : State) : (s.append b).turns = s.turns := rfl

/-! `countPacket`. -/

@[simp] theorem State.countPacket_cfg (s : State) : (s.countPacket).cfg = s.cfg := rfl
@[simp] theorem State.countPacket_mem (s : State) : (s.countPacket).mem = s.mem := rfl
@[simp] theorem State.countPacket_rd (s : State) : (s.countPacket).rd = s.rd := rfl
@[simp] theorem State.countPacket_count (s : State) : (s.countPacket).count = s.count := rfl
@[simp] theorem State.countPacket_rxPackets (s : State) : (s.countPacket).rxPackets = inc s.cfg s.rxPackets := rfl
@[simp] theorem State.countPacket_checksumFailures (s : State) : (s.countPacket).checksumFailures = s.checksumFailures := rfl
@[simp] theorem State.countPacket_resyncEvents (s : State) : (s.countPacket).resyncEvents = s.resyncEvents := rfl
@[simp] theorem State.countPacket_overflowEvents (s : State) : (s.countPacket).overflowEvents = s.overflowEvents := rfl
@[simp] theorem State.countPacket_response (s : State) : (s.countPacket).response = s.response := rfl
@[simp] theorem State.countPacket_ingress (s : State) : (s.countPacket).ingress = s.ingress := rfl
@[simp] theorem State.countPacket_consumer (s : State) : (s.countPacket).consumer = s.consumer := rfl
@[simp] theorem State.countPacket_control (s : State) : (s.countPacket).control = s.control := rfl
@[simp] theorem State.countPacket_turns (s : State) : (s.countPacket).turns = s.turns := rfl

/-! `countSlip`. -/

@[simp] theorem State.countSlip_cfg (s : State) : (s.countSlip).cfg = s.cfg := rfl
@[simp] theorem State.countSlip_mem (s : State) : (s.countSlip).mem = s.mem := rfl
@[simp] theorem State.countSlip_rd (s : State) : (s.countSlip).rd = s.rd := rfl
@[simp] theorem State.countSlip_count (s : State) : (s.countSlip).count = s.count := rfl
@[simp] theorem State.countSlip_rxPackets (s : State) : (s.countSlip).rxPackets = s.rxPackets := rfl
@[simp] theorem State.countSlip_checksumFailures (s : State) : (s.countSlip).checksumFailures = inc s.cfg s.checksumFailures := rfl
@[simp] theorem State.countSlip_resyncEvents (s : State) : (s.countSlip).resyncEvents = inc s.cfg s.resyncEvents := rfl
@[simp] theorem State.countSlip_overflowEvents (s : State) : (s.countSlip).overflowEvents = s.overflowEvents := rfl
@[simp] theorem State.countSlip_response (s : State) : (s.countSlip).response = s.response := rfl
@[simp] theorem State.countSlip_ingress (s : State) : (s.countSlip).ingress = s.ingress := rfl
@[simp] theorem State.countSlip_consumer (s : State) : (s.countSlip).consumer = s.consumer := rfl
@[simp] theorem State.countSlip_control (s : State) : (s.countSlip).control = s.control := rfl
@[simp] theorem State.countSlip_turns (s : State) : (s.countSlip).turns = s.turns := rfl

/-! `countOverflow`. -/

@[simp] theorem State.countOverflow_cfg (s : State) : (s.countOverflow).cfg = s.cfg := rfl
@[simp] theorem State.countOverflow_mem (s : State) : (s.countOverflow).mem = s.mem := rfl
@[simp] theorem State.countOverflow_rd (s : State) : (s.countOverflow).rd = s.rd := rfl
@[simp] theorem State.countOverflow_count (s : State) : (s.countOverflow).count = s.count := rfl
@[simp] theorem State.countOverflow_rxPackets (s : State) : (s.countOverflow).rxPackets = s.rxPackets := rfl
@[simp] theorem State.countOverflow_checksumFailures (s : State) : (s.countOverflow).checksumFailures = s.checksumFailures := rfl
@[simp] theorem State.countOverflow_resyncEvents (s : State) : (s.countOverflow).resyncEvents = s.resyncEvents := rfl
@[simp] theorem State.countOverflow_overflowEvents (s : State) : (s.countOverflow).overflowEvents = inc s.cfg s.overflowEvents := rfl
@[simp] theorem State.countOverflow_response (s : State) : (s.countOverflow).response = s.response := rfl
@[simp] theorem State.countOverflow_ingress (s : State) : (s.countOverflow).ingress = s.ingress := rfl
@[simp] theorem State.countOverflow_consumer (s : State) : (s.countOverflow).consumer = s.consumer := rfl
@[simp] theorem State.countOverflow_control (s : State) : (s.countOverflow).control = s.control := rfl
@[simp] theorem State.countOverflow_turns (s : State) : (s.countOverflow).turns = s.turns := rfl

/-! `clearCounters`. -/

@[simp] theorem State.clearCounters_cfg (s : State) : (s.clearCounters).cfg = s.cfg := rfl
@[simp] theorem State.clearCounters_mem (s : State) : (s.clearCounters).mem = s.mem := rfl
@[simp] theorem State.clearCounters_rd (s : State) : (s.clearCounters).rd = s.rd := rfl
@[simp] theorem State.clearCounters_count (s : State) : (s.clearCounters).count = s.count := rfl
@[simp] theorem State.clearCounters_rxPackets (s : State) : (s.clearCounters).rxPackets = 0 := rfl
@[simp] theorem State.clearCounters_checksumFailures (s : State) : (s.clearCounters).checksumFailures = 0 := rfl
@[simp] theorem State.clearCounters_resyncEvents (s : State) : (s.clearCounters).resyncEvents = 0 := rfl
@[simp] theorem State.clearCounters_overflowEvents (s : State) : (s.clearCounters).overflowEvents = 0 := rfl
@[simp] theorem State.clearCounters_response (s : State) : (s.clearCounters).response = s.response := rfl
@[simp] theorem State.clearCounters_ingress (s : State) : (s.clearCounters).ingress = s.ingress := rfl
@[simp] theorem State.clearCounters_consumer (s : State) : (s.clearCounters).consumer = s.consumer := rfl
@[simp] theorem State.clearCounters_control (s : State) : (s.clearCounters).control = s.control := rfl
@[simp] theorem State.clearCounters_turns (s : State) : (s.clearCounters).turns = s.turns := rfl

/-! `applyReset`. -/

@[simp] theorem State.applyReset_cfg (s : State) : (s.applyReset).cfg = s.cfg := rfl
@[simp] theorem State.applyReset_mem (s : State) : (s.applyReset).mem = [] := rfl
@[simp] theorem State.applyReset_rd (s : State) : (s.applyReset).rd = 0 := rfl
@[simp] theorem State.applyReset_count (s : State) : (s.applyReset).count = 0 := rfl
@[simp] theorem State.applyReset_rxPackets (s : State) : (s.applyReset).rxPackets = 0 := rfl
@[simp] theorem State.applyReset_checksumFailures (s : State) : (s.applyReset).checksumFailures = 0 := rfl
@[simp] theorem State.applyReset_resyncEvents (s : State) : (s.applyReset).resyncEvents = 0 := rfl
@[simp] theorem State.applyReset_overflowEvents (s : State) : (s.applyReset).overflowEvents = 0 := rfl
@[simp] theorem State.applyReset_response (s : State) : (s.applyReset).response = none := rfl
@[simp] theorem State.applyReset_ingress (s : State) : (s.applyReset).ingress = s.ingress := rfl
@[simp] theorem State.applyReset_consumer (s : State) : (s.applyReset).consumer = s.consumer := rfl
@[simp] theorem State.applyReset_control (s : State) : (s.applyReset).control = s.control := rfl
@[simp] theorem State.applyReset_turns (s : State) : (s.applyReset).turns = s.turns := rfl

/-! `spendTurn`. -/

@[simp] theorem State.spendTurn_cfg (rest : List Agent) (s : State) : (s.spendTurn rest).cfg = s.cfg := rfl
@[simp] theorem State.spendTurn_mem (rest : List Agent) (s : State) : (s.spendTurn rest).mem = s.mem := rfl
@[simp] theorem State.spendTurn_rd (rest : List Agent) (s : State) : (s.spendTurn rest).rd = s.rd := rfl
@[simp] theorem State.spendTurn_count (rest : List Agent) (s : State) : (s.spendTurn rest).count = s.count := rfl
@[simp] theorem State.spendTurn_rxPackets (rest : List Agent) (s : State) : (s.spendTurn rest).rxPackets = s.rxPackets := rfl
@[simp] theorem State.spendTurn_checksumFailures (rest : List Agent) (s : State) : (s.spendTurn rest).checksumFailures = s.checksumFailures := rfl
@[simp] theorem State.spendTurn_resyncEvents (rest : List Agent) (s : State) : (s.spendTurn rest).resyncEvents = s.resyncEvents := rfl
@[simp] theorem State.spendTurn_overflowEvents (rest : List Agent) (s : State) : (s.spendTurn rest).overflowEvents = s.overflowEvents := rfl
@[simp] theorem State.spendTurn_response (rest : List Agent) (s : State) : (s.spendTurn rest).response = s.response := rfl
@[simp] theorem State.spendTurn_ingress (rest : List Agent) (s : State) : (s.spendTurn rest).ingress = s.ingress := rfl
@[simp] theorem State.spendTurn_consumer (rest : List Agent) (s : State) : (s.spendTurn rest).consumer = s.consumer := rfl
@[simp] theorem State.spendTurn_control (rest : List Agent) (s : State) : (s.spendTurn rest).control = s.control := rfl
@[simp] theorem State.spendTurn_turns (rest : List Agent) (s : State) : (s.spendTurn rest).turns = rest := rfl

/-! `setPort`: one port changes. -/

@[simp] theorem State.setPort_cfg (p : Port) (v : PortState) (s : State) : (s.setPort p v).cfg = s.cfg := by cases p <;> rfl
@[simp] theorem State.setPort_mem (p : Port) (v : PortState) (s : State) : (s.setPort p v).mem = s.mem := by cases p <;> rfl
@[simp] theorem State.setPort_rd (p : Port) (v : PortState) (s : State) : (s.setPort p v).rd = s.rd := by cases p <;> rfl
@[simp] theorem State.setPort_count (p : Port) (v : PortState) (s : State) : (s.setPort p v).count = s.count := by cases p <;> rfl
@[simp] theorem State.setPort_rxPackets (p : Port) (v : PortState) (s : State) : (s.setPort p v).rxPackets = s.rxPackets := by cases p <;> rfl
@[simp] theorem State.setPort_checksumFailures (p : Port) (v : PortState) (s : State) : (s.setPort p v).checksumFailures = s.checksumFailures := by cases p <;> rfl
@[simp] theorem State.setPort_resyncEvents (p : Port) (v : PortState) (s : State) : (s.setPort p v).resyncEvents = s.resyncEvents := by cases p <;> rfl
@[simp] theorem State.setPort_overflowEvents (p : Port) (v : PortState) (s : State) : (s.setPort p v).overflowEvents = s.overflowEvents := by cases p <;> rfl
@[simp] theorem State.setPort_response (p : Port) (v : PortState) (s : State) : (s.setPort p v).response = s.response := by cases p <;> rfl
@[simp] theorem State.setPort_turns (p : Port) (v : PortState) (s : State) : (s.setPort p v).turns = s.turns := by cases p <;> rfl

/-! `accept`: one port changes. -/

@[simp] theorem State.accept_cfg (p : Port) (rest : List Command) (s : State) : (s.accept p rest).cfg = s.cfg := by cases p <;> rfl
@[simp] theorem State.accept_mem (p : Port) (rest : List Command) (s : State) : (s.accept p rest).mem = s.mem := by cases p <;> rfl
@[simp] theorem State.accept_rd (p : Port) (rest : List Command) (s : State) : (s.accept p rest).rd = s.rd := by cases p <;> rfl
@[simp] theorem State.accept_count (p : Port) (rest : List Command) (s : State) : (s.accept p rest).count = s.count := by cases p <;> rfl
@[simp] theorem State.accept_rxPackets (p : Port) (rest : List Command) (s : State) : (s.accept p rest).rxPackets = s.rxPackets := by cases p <;> rfl
@[simp] theorem State.accept_checksumFailures (p : Port) (rest : List Command) (s : State) : (s.accept p rest).checksumFailures = s.checksumFailures := by cases p <;> rfl
@[simp] theorem State.accept_resyncEvents (p : Port) (rest : List Command) (s : State) : (s.accept p rest).resyncEvents = s.resyncEvents := by cases p <;> rfl
@[simp] theorem State.accept_overflowEvents (p : Port) (rest : List Command) (s : State) : (s.accept p rest).overflowEvents = s.overflowEvents := by cases p <;> rfl
@[simp] theorem State.accept_response (p : Port) (rest : List Command) (s : State) : (s.accept p rest).response = none := by cases p <;> rfl
@[simp] theorem State.accept_turns (p : Port) (rest : List Command) (s : State) : (s.accept p rest).turns = s.turns := by cases p <;> rfl

/-! `deliver`: one port changes. -/

@[simp] theorem State.deliver_cfg (p : Port) (s : State) : (s.deliver p).cfg = s.cfg := by cases p <;> rfl
@[simp] theorem State.deliver_mem (p : Port) (s : State) : (s.deliver p).mem = s.mem := by cases p <;> rfl
@[simp] theorem State.deliver_rd (p : Port) (s : State) : (s.deliver p).rd = s.rd := by cases p <;> rfl
@[simp] theorem State.deliver_count (p : Port) (s : State) : (s.deliver p).count = s.count := by cases p <;> rfl
@[simp] theorem State.deliver_rxPackets (p : Port) (s : State) : (s.deliver p).rxPackets = s.rxPackets := by cases p <;> rfl
@[simp] theorem State.deliver_checksumFailures (p : Port) (s : State) : (s.deliver p).checksumFailures = s.checksumFailures := by cases p <;> rfl
@[simp] theorem State.deliver_resyncEvents (p : Port) (s : State) : (s.deliver p).resyncEvents = s.resyncEvents := by cases p <;> rfl
@[simp] theorem State.deliver_overflowEvents (p : Port) (s : State) : (s.deliver p).overflowEvents = s.overflowEvents := by cases p <;> rfl
@[simp] theorem State.deliver_response (p : Port) (s : State) : (s.deliver p).response = s.response := by cases p <;> rfl
@[simp] theorem State.deliver_turns (p : Port) (s : State) : (s.deliver p).turns = s.turns := by cases p <;> rfl

@[simp] theorem State.port_setPort (p : Port) (v : PortState) (s : State) : (s.setPort p v).port p = v := by
  cases p <;> rfl

theorem State.port_setPort_of_ne (p q : Port) (v : PortState) (s : State) (h : q ≠ p) :
    (s.setPort p v).port q = s.port q := by
  cases p <;> cases q <;> first | rfl | exact absurd rfl h

@[simp] theorem State.port_accept (p : Port) (rest : List Command) (s : State) :
    (s.accept p rest).port p = { s.port p with commands := rest } := by
  cases p <;> rfl

theorem State.port_accept_of_ne (p q : Port) (rest : List Command) (s : State) (h : q ≠ p) :
    (s.accept p rest).port q = s.port q := by
  cases p <;> cases q <;> first | rfl | exact absurd rfl h

@[simp] theorem State.port_deliver (p : Port) (s : State) :
    (s.deliver p).port p = { s.port p with answered := (s.port p).answered ++ s.response.toList } := by
  cases p <;> rfl

theorem State.port_deliver_of_ne (p q : Port) (s : State) (h : q ≠ p) : (s.deliver p).port q = s.port q := by
  cases p <;> cases q <;> first | rfl | exact absurd rfl h

@[simp] theorem State.port_spendTurn (p : Port) (rest : List Agent) (s : State) :
    (s.spendTurn rest).port p = s.port p := by
  cases p <;> rfl

@[simp] theorem State.port_applyReset (p : Port) (s : State) : s.applyReset.port p = s.port p := by
  cases p <;> rfl

/-! `raise`: what every exception leaves as it was. -/

@[simp] theorem State.raise_cfg (e : Exception) (s : State) : (s.raise e).cfg = s.cfg := by cases e <;> rfl
@[simp] theorem State.raise_mem (e : Exception) (s : State) : (s.raise e).mem = s.mem := by cases e <;> rfl
@[simp] theorem State.raise_rd (e : Exception) (s : State) : (s.raise e).rd = s.rd := by cases e <;> rfl
@[simp] theorem State.raise_count (e : Exception) (s : State) : (s.raise e).count = s.count := by cases e <;> rfl
@[simp] theorem State.raise_rxPackets (e : Exception) (s : State) : (s.raise e).rxPackets = s.rxPackets := by cases e <;> rfl
@[simp] theorem State.raise_ingress (e : Exception) (s : State) : (s.raise e).ingress = s.ingress := by cases e <;> rfl
@[simp] theorem State.raise_consumer (e : Exception) (s : State) : (s.raise e).consumer = s.consumer := by cases e <;> rfl
@[simp] theorem State.raise_control (e : Exception) (s : State) : (s.raise e).control = s.control := by cases e <;> rfl
@[simp] theorem State.raise_turns (e : Exception) (s : State) : (s.raise e).turns = s.turns := by cases e <;> rfl

/-- Every exception is recorded by a response (R171). -/
theorem State.raise_response_isSome (e : Exception) (s : State) : (s.raise e).response.isSome = true := by
  cases e <;> rfl

/-! `makeRoom`: the cursors move only when the buffer is full. -/

@[simp] theorem State.makeRoom_cfg (s : State) : s.makeRoom.cfg = s.cfg := by unfold State.makeRoom; split <;> rfl
@[simp] theorem State.makeRoom_mem (s : State) : s.makeRoom.mem = s.mem := by unfold State.makeRoom; split <;> rfl
@[simp] theorem State.makeRoom_rxPackets (s : State) : s.makeRoom.rxPackets = s.rxPackets := by unfold State.makeRoom; split <;> rfl
@[simp] theorem State.makeRoom_checksumFailures (s : State) : s.makeRoom.checksumFailures = s.checksumFailures := by unfold State.makeRoom; split <;> rfl
@[simp] theorem State.makeRoom_resyncEvents (s : State) : s.makeRoom.resyncEvents = s.resyncEvents := by unfold State.makeRoom; split <;> rfl
@[simp] theorem State.makeRoom_overflowEvents (s : State) : s.makeRoom.overflowEvents = s.overflowEvents := by unfold State.makeRoom; split <;> rfl
@[simp] theorem State.makeRoom_response (s : State) : s.makeRoom.response = s.response := by unfold State.makeRoom; split <;> rfl
@[simp] theorem State.makeRoom_ingress (s : State) : s.makeRoom.ingress = s.ingress := by unfold State.makeRoom; split <;> rfl
@[simp] theorem State.makeRoom_consumer (s : State) : s.makeRoom.consumer = s.consumer := by unfold State.makeRoom; split <;> rfl
@[simp] theorem State.makeRoom_control (s : State) : s.makeRoom.control = s.control := by unfold State.makeRoom; split <;> rfl
@[simp] theorem State.makeRoom_turns (s : State) : s.makeRoom.turns = s.turns := by unfold State.makeRoom; split <;> rfl

theorem State.makeRoom_of_full (s : State) (h : s.full = true) : s.makeRoom = s.advance 1 := by
  simp [State.makeRoom, h]

theorem State.makeRoom_of_not_full (s : State) (h : s.full = false) : s.makeRoom = s := by
  simp [State.makeRoom, h]

theorem State.full_iff (s : State) : s.full = true ↔ s.count = s.cfg.cap := by
  simp [State.full]

/-! The reset state of any parameters. -/

@[simp] theorem State.resetWith_cfg (c : Config) : (State.resetWith c).cfg = c := rfl
@[simp] theorem State.resetWith_mem (c : Config) : (State.resetWith c).mem = [] := rfl
@[simp] theorem State.resetWith_rd (c : Config) : (State.resetWith c).rd = 0 := rfl
@[simp] theorem State.resetWith_count (c : Config) : (State.resetWith c).count = 0 := rfl
@[simp] theorem State.resetWith_rxPackets (c : Config) : (State.resetWith c).rxPackets = 0 := rfl
@[simp] theorem State.resetWith_checksumFailures (c : Config) : (State.resetWith c).checksumFailures = 0 := rfl
@[simp] theorem State.resetWith_resyncEvents (c : Config) : (State.resetWith c).resyncEvents = 0 := rfl
@[simp] theorem State.resetWith_overflowEvents (c : Config) : (State.resetWith c).overflowEvents = 0 := rfl
@[simp] theorem State.resetWith_response (c : Config) : (State.resetWith c).response = none := rfl
@[simp] theorem State.resetWith_ingress (c : Config) : (State.resetWith c).ingress = .quiet := rfl
@[simp] theorem State.resetWith_consumer (c : Config) : (State.resetWith c).consumer = .quiet := rfl
@[simp] theorem State.resetWith_control (c : Config) : (State.resetWith c).control = .quiet := rfl
@[simp] theorem State.resetWith_turns (c : Config) : (State.resetWith c).turns = [] := rfl

end Sys2Proof.Machine
end

