-- ==== Sys2Proof/Laws/Ring.lean ====
section
/-! SUPPORT. The ring of rules R22 to R27: what moving the read cursor and appending a byte do to the bytes behind it and
to the abstract view `Buf`. -/

namespace Sys2Proof.Machine

theorem State.ringIndex_lt (s : State) (k : Nat) (h : 0 < s.cfg.cap) : s.ringIndex k < s.cfg.cap :=
  Nat.mod_lt _ h

/-- Behind the cursor moved by `k`, the byte at distance `j` is the one that was at distance `k + j`. -/
theorem State.ringIndex_advance (k j : Nat) (s : State) : (s.advance k).ringIndex j = s.ringIndex (k + j) := by
  simp [State.ringIndex, Nat.add_assoc]

@[simp] theorem State.byteAt_advance (k j : Nat) (s : State) : (s.advance k).byteAt j = s.byteAt (k + j) := by
  simp [State.byteAt, State.ringIndex_advance]

/-- The bytes behind the cursor depend on the parameters, the storage and the cursor only. -/
theorem State.byteAt_congr {s t : State} (hc : t.cfg = s.cfg) (hm : t.mem = s.mem) (hr : t.rd = s.rd) :
    t.byteAt = s.byteAt := by
  funext k
  simp [State.byteAt, State.ringIndex, hc, hm, hr]

theorem State.buf_congr {s t : State} (hc : t.cfg = s.cfg) (hm : t.mem = s.mem) (hr : t.rd = s.rd)
    (hn : t.count = s.count) : t.buf = s.buf := by
  simp [State.buf, State.byteAt_congr hc hm hr, hn]

/-- Two distances less than CAP apart are at different indexes. -/
theorem mod_ne_of_lt (r j n c : Nat) (hj : j < n) (hn : n < c + j) : (r + j) % c ≠ (r + n) % c := by
  intro h
  obtain ⟨d, rfl⟩ : ∃ d, n = j + d := ⟨n - j, by omega⟩
  have h2 : (r + j) % c = (r + j + d) % c := by rw [h, Nat.add_assoc]
  have h3 := Nat.sub_mod_eq_zero_of_mod_eq h2.symm
  have h4 : r + j + d - (r + j) = d := by omega
  rw [h4] at h3
  have h5 : d % c = d := Nat.mod_eq_of_lt (by omega)
  omega

/-- An append leaves the bytes at shorter distances as they were. -/
theorem State.byteAt_append_of_lt (b : Byte) (s : State) (k : Nat) (hk : k < s.count) (hn : s.count < s.cfg.cap) :
    (s.append b).byteAt k = s.byteAt k := by
  simp only [State.byteAt, State.ringIndex, State.append_mem, State.append_rd, State.append_cfg, State.wr]
  exact Memory.read_write_other _ _ _ _ (mod_ne_of_lt _ _ _ _ hk (by omega))

/-- The appended byte is the newest. -/
theorem State.byteAt_append_self (b : Byte) (s : State) : (s.append b).byteAt s.count = some b := by
  simp [State.byteAt, State.ringIndex, State.wr]

theorem filterMap_range_getElem? (f : Nat → Option Byte) (n : Nat) (h : ∀ k, k < n → (f k).isSome = true) (k : Nat) :
    ((List.range n).filterMap f)[k]? = if k < n then f k else none := by
  induction n generalizing k with
  | zero => simp
  | succ n ih =>
    have ih := ih fun k hk => h k (by omega)
    have hlen : ((List.range n).filterMap f).length = n := by
      apply Nat.le_antisymm
      · exact (List.length_filterMap_le _ _).trans (by simp)
      · by_contra hlt
        have h1 : ((List.range n).filterMap f).length < n := by omega
        have h2 := ih ((List.range n).filterMap f).length
        rw [if_pos h1, List.getElem?_eq_none (Nat.le_refl _)] at h2
        have := h _ (Nat.lt_succ_of_lt h1)
        rw [← h2] at this
        simp at this
    obtain ⟨v, hv⟩ := Option.isSome_iff_exists.mp (h n (by omega))
    rw [List.range_succ, List.filterMap_append, List.getElem?_append, hlen]
    rcases Nat.lt_trichotomy k n with hk | hk | hk
    · rw [if_pos hk, ih, if_pos hk, if_pos (by omega)]
    · subst hk; simp [hv]
    · rw [if_neg (by omega), if_neg (by omega)]
      simp only [List.filterMap_cons, hv, List.filterMap_nil]
      exact List.getElem?_eq_none (by simp; omega)

/-- `Buf[k]` is the byte `k` places behind the read cursor (R27). -/
theorem State.buf_getElem? (s : State) (h : ∀ k, k < s.count → (s.byteAt k).isSome = true) (k : Nat) :
    s.buf[k]? = if k < s.count then s.byteAt k else none :=
  filterMap_range_getElem? _ _ h k

/-- `|Buf| = count` (R27). -/
theorem State.buf_length (s : State) (h : ∀ k, k < s.count → (s.byteAt k).isSome = true) :
    s.buf.length = s.count := by
  apply Nat.le_antisymm
  · exact (List.length_filterMap_le _ _).trans (by simp)
  · by_contra hlt
    have h1 : s.buf.length < s.count := by omega
    have h2 := s.buf_getElem? h s.buf.length
    rw [if_pos h1, List.getElem?_eq_none (Nat.le_refl _)] at h2
    have := h _ h1
    rw [← h2] at this
    simp at this

/-- Removing the `k` oldest bytes drops them from the front of `Buf` (R27). -/
theorem State.buf_advance (s : State) (k : Nat) (h : ∀ k, k < s.count → (s.byteAt k).isSome = true) :
    (s.advance k).buf = s.buf.drop k := by
  apply List.ext_getElem?
  intro j
  rw [State.buf_getElem?, List.getElem?_drop, State.buf_getElem? s h]
  · simp only [State.advance_count, State.byteAt_advance]
    by_cases hj : k + j < s.count
    · rw [if_pos hj, if_pos (by omega)]
    · rw [if_neg hj, if_neg (by omega)]
  · intro i hi
    rw [State.byteAt_advance]
    exact h _ (by simp at hi; omega)

/-- Appending to a buffer that is not full puts the byte at the end of `Buf` (R27). -/
theorem State.buf_append (s : State) (b : Byte) (h : ∀ k, k < s.count → (s.byteAt k).isSome = true)
    (hn : s.count < s.cfg.cap) : (s.append b).buf = s.buf ++ [b] := by
  have h' : ∀ k, k < (s.append b).count → ((s.append b).byteAt k).isSome = true := by
    intro k hk
    rcases Nat.lt_or_ge k s.count with hlt | hge
    · rw [State.byteAt_append_of_lt b s k hlt hn]; exact h k hlt
    · have : k = s.count := by simp at hk; omega
      subst this
      rw [State.byteAt_append_self]; rfl
  apply List.ext_getElem?
  intro j
  rw [State.buf_getElem? _ h', List.getElem?_append, State.buf_length s h, State.buf_getElem? s h]
  have hc : (s.append b).count = s.count + 1 := rfl
  rcases Nat.lt_trichotomy j s.count with hj | hj | hj
  · rw [if_pos (by omega), if_pos hj, if_pos hj, State.byteAt_append_of_lt b s j hj hn]
  · subst hj
    rw [if_pos (by omega), if_neg (by omega), State.byteAt_append_self]
    simp
  · rw [if_neg (by omega), if_neg (by omega)]
    exact (List.getElem?_eq_none (by simp; omega)).symm

/-- With four unread bytes the window is there, and it is `Buf[0..3]` (R134, R27). -/
theorem State.window_eq (s : State) (h : ∀ k, k < s.count → (s.byteAt k).isSome = true) (hn : 4 ≤ s.count) :
    ∃ b0 b1 b2 b3, s.window = some (pack b0 b1 b2 b3) ∧ s.buf = b0 :: b1 :: b2 :: b3 :: (s.advance 4).buf := by
  obtain ⟨b0, h0⟩ := Option.isSome_iff_exists.mp (h 0 (by omega))
  obtain ⟨b1, h1⟩ := Option.isSome_iff_exists.mp (h 1 (by omega))
  obtain ⟨b2, h2⟩ := Option.isSome_iff_exists.mp (h 2 (by omega))
  obtain ⟨b3, h3⟩ := Option.isSome_iff_exists.mp (h 3 (by omega))
  refine ⟨b0, b1, b2, b3, by simp [State.window, h0, h1, h2, h3], ?_⟩
  rw [State.buf_advance s 4 h]
  apply List.ext_getElem?
  intro j
  match j with
  | 0 => rw [State.buf_getElem? s h]; simp [h0]; omega
  | 1 => rw [State.buf_getElem? s h]; simp [h1]; omega
  | 2 => rw [State.buf_getElem? s h]; simp [h2]; omega
  | 3 => rw [State.buf_getElem? s h]; simp [h3]; omega
  | j + 4 => simp [Nat.add_comm]

end Sys2Proof.Machine
end

