-- ==== Sys2Proof/Laws/Ops.lean ====
section
/-! SUPPORT. The shared operations and the invariant `State.WF`: each keeps it, under the condition it is used in. -/

namespace Sys2Proof.Machine

/-! The counter increment (R12). -/

theorem inc_le (cfg : Config) (c : Nat) : inc cfg c ≤ cfg.cntMax := by
  unfold inc
  split
  · omega
  · split
    · exact Nat.zero_le _
    · exact Nat.le_refl _

theorem inc_of_lt (cfg : Config) (c : Nat) (h : c < cfg.cntMax) : inc cfg c = c + 1 := by
  simp only [inc, if_pos h]

theorem incTimes_succ (cfg : Config) (n c : Nat) : incTimes cfg (n + 1) c = inc cfg (incTimes cfg n c) := by
  induction n generalizing c with
  | zero => rfl
  | succ n ih => exact ih (inc cfg c)

/-! The invariant. -/

/-- The invariant speaks of the block's fields only: not of the response, the ports and the turns. -/
theorem State.WF.of_block_eq {s t : State} (h : s.WF) (hc : t.cfg = s.cfg) (hm : t.mem = s.mem) (hr : t.rd = s.rd)
    (hn : t.count = s.count) (h1 : t.rxPackets = s.rxPackets) (h2 : t.checksumFailures = s.checksumFailures)
    (h3 : t.resyncEvents = s.resyncEvents) (h4 : t.overflowEvents = s.overflowEvents) : t.WF where
  cfg := hc ▸ h.cfg
  mem := hm ▸ h.mem
  memBound := by rw [hm, hc]; exact h.memBound
  rd := by rw [hr, hc]; exact h.rd
  count := by rw [hn, hc]; exact h.count
  unread := by rw [hn, State.byteAt_congr hc hm hr]; exact h.unread
  rxPackets := by rw [h1, hc]; exact h.rxPackets
  checksumFailures := by rw [h2, hc]; exact h.checksumFailures
  resyncEvents := by rw [h3, hc]; exact h.resyncEvents
  overflowEvents := by rw [h4, hc]; exact h.overflowEvents

theorem State.WF.cap_pos {s : State} (h : s.WF) : 0 < s.cfg.cap := by have := h.cfg.1; omega

theorem State.WF.respond {s : State} (h : s.WF) (code : ResponseCode) (data : Word) : (s.respond code data).WF :=
  h.of_block_eq rfl rfl rfl rfl rfl rfl rfl rfl

theorem State.WF.spendTurn {s : State} (h : s.WF) (rest : List Agent) : (s.spendTurn rest).WF :=
  h.of_block_eq rfl rfl rfl rfl rfl rfl rfl rfl

theorem State.WF.accept {s : State} (h : s.WF) (p : Port) (rest : List Command) : (s.accept p rest).WF := by
  refine h.of_block_eq ?_ ?_ ?_ ?_ ?_ ?_ ?_ ?_ <;> simp

theorem State.WF.deliver {s : State} (h : s.WF) (p : Port) : (s.deliver p).WF := by
  refine h.of_block_eq ?_ ?_ ?_ ?_ ?_ ?_ ?_ ?_ <;> simp

theorem State.WF.countPacket {s : State} (h : s.WF) : s.countPacket.WF :=
  { h with rxPackets := inc_le _ _ }

theorem State.WF.countSlip {s : State} (h : s.WF) : s.countSlip.WF :=
  { h with checksumFailures := inc_le _ _, resyncEvents := inc_le _ _ }

theorem State.WF.countOverflow {s : State} (h : s.WF) : s.countOverflow.WF :=
  { h with overflowEvents := inc_le _ _ }

theorem State.WF.clearCounters {s : State} (h : s.WF) : s.clearCounters.WF :=
  { h with rxPackets := Nat.zero_le _, checksumFailures := Nat.zero_le _, resyncEvents := Nat.zero_le _,
           overflowEvents := Nat.zero_le _ }

theorem State.WF.raise {s : State} (h : s.WF) (e : Exception) : (s.raise e).WF := by
  cases e with
  | syncChecksum w => exact h.countSlip.respond _ _
  | codecChecksum w => exact h.respond _ _
  | bufferOverflow => exact h.countOverflow.respond _ _
  | illegalCommand => exact h.respond _ _

/-- Removing unread bytes from the front keeps the invariant. -/
theorem State.WF.advance {s : State} (h : s.WF) (k : Nat) (hk : k ≤ s.count) : (s.advance k).WF :=
  { h with
    rd := State.ringIndex_lt s k h.cap_pos
    count := (Nat.sub_le _ _).trans h.count
    unread := fun j hj => by
      have hj : j < s.count - k := hj
      rw [State.byteAt_advance]
      exact h.unread _ (by omega) }

/-- Appending to a buffer that is not full keeps the invariant. -/
theorem State.WF.append {s : State} (h : s.WF) (b : Byte) (hn : s.count < s.cfg.cap) : (s.append b).WF :=
  { h with
    mem := Memory.wf_write _ _ _ h.mem
    memBound := fun c hc => by
      rcases Memory.mem_write hc with rfl | hc
      · exact State.ringIndex_lt s _ h.cap_pos
      · exact h.memBound c hc
    count := hn
    unread := fun k hk => by
      have hk : k < s.count + 1 := hk
      rcases Nat.lt_or_ge k s.count with hlt | hge
      · rw [State.byteAt_append_of_lt b s k hlt hn]; exact h.unread k hlt
      · obtain rfl : k = s.count := by omega
        rw [State.byteAt_append_self]; rfl }

/-- After the overflow policy's drop there is room for one byte (R132). -/
theorem State.WF.makeRoom {s : State} (h : s.WF) : s.makeRoom.WF ∧ s.makeRoom.count < s.makeRoom.cfg.cap := by
  have hcap := h.cfg.1
  cases hf : s.full
  · rw [State.makeRoom_of_not_full s hf]
    refine ⟨h, Nat.lt_of_le_of_ne h.count fun he => ?_⟩
    rw [(State.full_iff s).mpr he] at hf
    exact Bool.noConfusion hf
  · rw [State.makeRoom_of_full s hf]
    have he := (State.full_iff s).mp hf
    refine ⟨h.advance 1 (by omega), ?_⟩
    show s.count - 1 < s.cfg.cap
    omega

/-- The state after reset meets the invariant when its parameters are legal, whatever stood before (R190). -/
theorem State.WF.of_applyReset {s : State} (h : s.cfg.Legal) : s.applyReset.WF where
  cfg := h
  mem := rfl
  memBound := fun _ hc => nomatch hc
  rd := by show 0 < s.cfg.cap; have := h.1; omega
  count := Nat.zero_le _
  unread := fun k hk => absurd hk (Nat.not_lt_zero k)
  rxPackets := Nat.zero_le _
  checksumFailures := Nat.zero_le _
  resyncEvents := Nat.zero_le _
  overflowEvents := Nat.zero_le _

end Sys2Proof.Machine
end

