-- ==== Sys2Proof/Laws/Exec.lean ====
section
/-! SUPPORT. One spec lemma per meaning, and what every operation does: it writes a response, and it leaves the parameters,
the ports and the turns as they were. -/

namespace Sys2Proof.Machine

/-- INGEST's next state (R131), whether the buffer is full or not. -/
theorem execIngest_next (b : Byte) (s : State) :
    execIngest b s = .next (if s.full then (s.makeRoom.append b).raise .bufferOverflow
      else (s.makeRoom.append b).respond .accepted 0#32) := rfl

/-- What POLL can do (R134): EMPTY, PACKET, SLIP, or a stop on a byte that nothing has written. -/
theorem execPoll_cases (s : State) :
    (s.count < 4 ∧ execPoll s = .next (s.respond .empty 0#32)) ∨
    (4 ≤ s.count ∧ s.window = none ∧ execPoll s = .fault (.unwrittenByte s.rd)) ∨
    (4 ≤ s.count ∧ ∃ w, s.window = some w ∧ validWord w = true ∧
      execPoll s = .next ((s.advance 4).countPacket.respond .packet w)) ∨
    (4 ≤ s.count ∧ ∃ w, s.window = some w ∧ validWord w = false ∧
      execPoll s = .next ((s.advance 1).raise (.syncChecksum w))) := by
  unfold execPoll
  by_cases hc : s.count < 4
  · exact .inl ⟨hc, if_pos hc⟩
  · have hc' : 4 ≤ s.count := by omega
    rw [if_neg hc]
    cases hw : s.window with
    | none => exact .inr (.inl ⟨hc', rfl, rfl⟩)
    | some w =>
      cases hv : validWord w
      · exact .inr (.inr (.inr ⟨hc', w, rfl, hv, by simp [hv]⟩))
      · exact .inr (.inr (.inl ⟨hc', w, rfl, hv, by simp [hv]⟩))

/-- Every operation that completes has written one response (R71) and has left the parameters, the ports and the turns
as they were. -/
theorem exec_interface {i : Instr} {s t : State} (h : exec i s = .next t) :
    t.response.isSome = true ∧ t.cfg = s.cfg ∧ t.ingress = s.ingress ∧ t.consumer = s.consumer ∧
    t.control = s.control ∧ t.turns = s.turns := by
  cases i with
  | nop => cases h; simp
  | ingest b =>
    cases h
    split <;> simp [State.raise]
  | poll =>
    change execPoll s = .next t at h
    obtain ⟨_, he⟩ | ⟨_, _, he⟩ | ⟨_, w, _, _, he⟩ | ⟨_, w, _, _, he⟩ := execPoll_cases s <;> rw [he] at h <;>
      cases h <;> simp [State.raise]
  | encode t d0 d1 => cases h; simp
  | validate b0 b1 b2 b3 => cases h; split <;> simp [State.raise]
  | statsRead id => cases h; split <;> simp [State.raise]
  | statsClear => cases h; simp
  | statusRead sel => cases h; split <;> simp [State.raise]

/-- A command that decodes to no operation is answered ILLEGAL (R92, R175). -/
theorem perform_illegal {c : Command} {r : IllegalReason} (h : decode c = .illegal r) (s : State) :
    perform c s = .next (s.raise .illegalCommand) := by
  simp [perform, h]

theorem perform_instr {c : Command} {i : Instr} (h : decode c = .instr i) (s : State) : perform c s = exec i s := by
  simp [perform, h]

/-- The same of every command. -/
theorem perform_interface {c : Command} {s t : State} (h : perform c s = .next t) :
    t.response.isSome = true ∧ t.cfg = s.cfg ∧ t.ingress = s.ingress ∧ t.consumer = s.consumer ∧
    t.control = s.control ∧ t.turns = s.turns := by
  cases hd : decode c with
  | instr i => rw [perform_instr hd] at h; exact exec_interface h
  | illegal r => rw [perform_illegal hd] at h; cases h; simp [State.raise]

/-- What one step can do: nothing is presented, or reset, or one command of one port. -/
theorem step_cases {s t : State} (h : step s = .next t) :
    (s.turns = [] ∧ t = s) ∨
    (∃ rest, s.turns = .reset :: rest ∧ t = (s.spendTurn rest).applyReset) ∨
    (∃ p rest, s.turns = .port p :: rest ∧ (s.port p).commands = [] ∧ t = s.spendTurn rest) ∨
    (∃ p rest c cs u, s.turns = .port p :: rest ∧ (s.port p).commands = c :: cs ∧
      perform c ((s.spendTurn rest).accept p cs) = .next u ∧ t = u.deliver p) := by
  unfold step at h
  split at h
  · cases h; exact .inl ⟨by assumption, rfl⟩
  · cases h; exact .inr (.inl ⟨_, by assumption, rfl⟩)
  · rename_i p rest ht
    unfold servePort at h
    rw [State.port_spendTurn] at h
    cases hc : (s.port p).commands with
    | nil => rw [hc] at h; cases h; exact .inr (.inr (.inl ⟨p, rest, ht, hc, rfl⟩))
    | cons c cs =>
      rw [hc] at h
      dsimp only at h
      cases hp : perform c ((s.spendTurn rest).accept p cs) with
      | next u => rw [hp] at h; cases h; exact .inr (.inr (.inr ⟨p, rest, c, cs, u, ht, hc, hp, rfl⟩))
      | fault r => rw [hp] at h; cases h
      | refused r => rw [hp] at h; cases h

end Sys2Proof.Machine
end

