-- ==== Sys2Proof/Laws/Packet.lean ====
section
/-! SUPPORT. Packing and unpacking a packet word (R79), and the checksum test on a packed word (R113, R115). -/

namespace Sys2Proof.Machine

@[simp] theorem byte0_pack (b0 b1 b2 b3 : Byte) : byte0 (pack b0 b1 b2 b3) = b0 := (word_bytes b0 b1 b2 b3).1
@[simp] theorem byte1_pack (b0 b1 b2 b3 : Byte) : byte1 (pack b0 b1 b2 b3) = b1 := (word_bytes b0 b1 b2 b3).2.1
@[simp] theorem byte2_pack (b0 b1 b2 b3 : Byte) : byte2 (pack b0 b1 b2 b3) = b2 := (word_bytes b0 b1 b2 b3).2.2.1
@[simp] theorem byte3_pack (b0 b1 b2 b3 : Byte) : byte3 (pack b0 b1 b2 b3) = b3 := (word_bytes b0 b1 b2 b3).2.2.2

@[simp] theorem pack_bytes (w : Word) : pack (byte0 w) (byte1 w) (byte2 w) (byte3 w) = w := word_of_bytes w

@[simp] theorem validWord_pack (b0 b1 b2 b3 : Byte) : validWord (pack b0 b1 b2 b3) = valid b0 b1 b2 b3 := by
  simp [validWord]

@[simp] theorem correctedWord_pack (b0 b1 b2 b3 : Byte) :
    correctedWord (pack b0 b1 b2 b3) = pack b0 b1 b2 (crc8 b0 b1 b2) := by
  simp [correctedWord, crcOfWord]

theorem valid_iff (b0 b1 b2 b3 : Byte) : valid b0 b1 b2 b3 = true ↔ b3 = crc8 b0 b1 b2 := by
  simp [valid]

end Sys2Proof.Machine
end

