-- ==== Sys2Proof/Laws/Run.lean ====
section
/-! SUPPORT. The steps of a run, one at a time (Host.Core.run), and what a port's turn comes to. -/

namespace Sys2Proof.Machine

/-- A run of any machine goes on from its first step's next state. -/
theorem run_succ_of_next (M : Host.Core) (n : Nat) (s u : M.State) (h : M.step s = .next u) :
    M.run (n + 1) s = M.run n u := by
  simp only [Host.Core.run, h]

/-- A run of any machine that comes to an end took a first step. -/
theorem run_succ_next (M : Host.Core) (n : Nat) (s t : M.State) (h : M.run (n + 1) s = .next t) :
    ∃ u, M.step s = .next u ∧ M.run n u = .next t := by
  cases hs : M.step s with
  | next u => exact ⟨u, rfl, by simpa only [Host.Core.run, hs] using h⟩
  | fault r => simp [Host.Core.run, hs] at h
  | refused r => simp [Host.Core.run, hs] at h

theorem run_of_next (n : Nat) {s u : State} (h : step s = .next u) :
    Host.Core.run Sys2Proof.core (n + 1) s = Host.Core.run Sys2Proof.core n u :=
  run_succ_of_next Sys2Proof.core n s u h

theorem run_next {n : Nat} {s t : State} (h : Host.Core.run Sys2Proof.core (n + 1) s = .next t) :
    ∃ u, step s = .next u ∧ Host.Core.run Sys2Proof.core n u = .next t :=
  run_succ_next Sys2Proof.core n s t h

/-- A step in which a port presents a command performs it and hands its response to that port (R61, R71). -/
theorem step_port {s : State} {p : Port} {rest : List Agent} {c : Command} {cs : List Command}
    (ht : s.turns = .port p :: rest) (hc : (s.port p).commands = c :: cs) :
    step s = mapNext (State.deliver p) (perform c ((s.spendTurn rest).accept p cs)) := by
  unfold step
  rw [ht]
  show servePort _ _ = _
  unfold servePort
  rw [State.port_spendTurn, hc]

end Sys2Proof.Machine
end

