-- ==== Sys2Proof/Tests/Slice0.lean ====
section
/-! SUPPORT. The model's own tests. Expected values are those of 95_test_vectors.md, or worked out by hand from the rules
named. A `witness_X` shows that the hypotheses of `Obligations.X` can be met together, clause by clause. -/

set_option Elab.async false

namespace Sys2Proof.Tests

open Sys2Proof.Machine

/-! ### Helpers -/

/-- `mem` with `bs` written from index `r` on, modulo `cap`. -/
def storeAt (cap : Nat) : Nat → List Byte → Memory
  | _, [] => []
  | r, b :: bs => Memory.write (storeAt cap (r + 1) bs) (r % cap) b

/-- A state that holds `bs`, the read cursor at `r`, counters 0, counter width 32, WRAP. -/
def holding (cap r : Nat) (bs : List Byte) : State :=
  { State.resetWith ⟨cap, 32, .wrap⟩ with rd := r, count := bs.length, mem := storeAt cap r bs }

/-- The next state, if there is one. -/
def after : Host.Outcome State Fault Refusal → Option State
  | .next s => some s
  | .fault _ => none
  | .refused _ => none

theorem next_of_after {o : Host.Outcome State Fault Refusal} {t : State} (h : after o = some t) : o = .next t := by
  cases o <;> simp_all [after]

/-- A next state is answered. The check runs; `runs_iff` says what it means. -/
abbrev Runs (o : Host.Outcome State Fault Refusal) : Prop := (after o).isSome = true

theorem runs_iff (o : Host.Outcome State Fault Refusal) : Runs o ↔ ∃ t, o = .next t := by
  cases o <;> simp [Runs, after]

/-- The response and `Buf` after a command. -/
def shows (o : Host.Outcome State Fault Refusal) : Option (Option Response × List Byte) :=
  (after o).map fun t => (t.response, t.buf)

/-- The four counters after a command. -/
def counts (o : Host.Outcome State Fault Refusal) : Option (List Nat) :=
  (after o).map fun t => [t.rxPackets, t.checksumFailures, t.resyncEvents, t.overflowEvents]

/-- The invariant as a check that runs. -/
def wfCheck (s : State) : Bool :=
  decide s.cfg.Legal && Memory.wf s.mem && s.mem.all (fun c => decide (c.1 < s.cfg.cap))
  && decide (s.rd < s.cfg.cap) && decide (s.count ≤ s.cfg.cap)
  && (List.range s.count).all (fun k => (s.byteAt k).isSome)
  && decide (s.rxPackets ≤ s.cfg.cntMax) && decide (s.checksumFailures ≤ s.cfg.cntMax)
  && decide (s.resyncEvents ≤ s.cfg.cntMax) && decide (s.overflowEvents ≤ s.cfg.cntMax)

theorem wf_of_check {s : State} (h : wfCheck s = true) : s.WF := by
  simp only [wfCheck, Bool.and_eq_true, List.all_eq_true, List.mem_range, decide_eq_true_eq] at h
  obtain ⟨⟨⟨⟨⟨⟨⟨⟨⟨h1, h2⟩, h3⟩, h4⟩, h5⟩, h6⟩, h7⟩, h8⟩, h9⟩, h10⟩ := h
  exact ⟨h1, h2, h3, h4, h5, h6, h7, h8, h9, h10⟩

/-- CAP 8, empty. -/
def empty8 : State := holding 8 0 []
/-- CAP 8, three bytes: SEEKING, one byte short of a packet. -/
def three8 : State := holding 8 0 [0x01, 0x00, 0x00]
/-- CAP 8, a valid window that straddles the end of `mem` (95_test_vectors.md, section 2.5). -/
def valid8 : State := holding 8 6 [0x01, 0x00, 0x00, 0x6B]
/-- CAP 8, one garbage byte before a packet (program P1). -/
def slip8 : State := holding 8 0 [0xFF, 0x01, 0x00, 0x00, 0x6B]
/-- CAP 8, the false lock of R141 (program P4). -/
def lock8 : State := holding 8 0 [0xD9, 0x01, 0x00, 0x00, 0x6B]
/-- CAP 4, the least capacity, full (program P7). -/
def full4 : State := holding 4 0 [0x01, 0x00, 0x00, 0x6B]
/-- A state that no run reaches: a count of 4 and no byte written. -/
def unwritten8 : State := { empty8 with count := 4 }
/-- Counters [1, 1, 1, 0], as program P1 ends. -/
def counted8 : State := { empty8 with rxPackets := 1, checksumFailures := 1, resyncEvents := 1 }

theorem wf_empty8 : empty8.WF := wf_of_check (by decide +kernel)
theorem wf_three8 : three8.WF := wf_of_check (by decide +kernel)
theorem wf_valid8 : valid8.WF := wf_of_check (by decide +kernel)
theorem wf_slip8 : slip8.WF := wf_of_check (by decide +kernel)
theorem wf_lock8 : lock8.WF := wf_of_check (by decide +kernel)
theorem wf_full4 : full4.WF := wf_of_check (by decide +kernel)

/-! ### WellFormed: an ill-formed term for each check, refused (R37, R38) -/

theorem test_reserved_counter_id_refused : (Instr.statsRead 4).wellFormed = false := by decide
theorem test_reserved_selector_refused : (Instr.statusRead 3).wellFormed = false := by decide

/-! ### Decoding: words written out from R70, R72 and R91 -/

theorem test_decode_nop : decode 0x000000000#36 = .instr .nop := by decide +kernel
theorem test_decode_ingest : decode 0x1000000FF#36 = .instr (.ingest 0xFF) := by decide +kernel
theorem test_decode_poll : decode 0x200000000#36 = .instr .poll := by decide +kernel
theorem test_decode_encode : decode 0x3E0123400#36 = .instr (.encode 0xE0 0x12 0x34) := by decide +kernel
theorem test_decode_validate : decode 0x420F0008E#36 = .instr (.validate 0x20 0xF0 0x00 0x8E) := by decide +kernel
theorem test_decode_statsRead : decode 0x500000003#36 = .instr (.statsRead 3) := by decide +kernel
theorem test_decode_statsClear : decode 0x600000000#36 = .instr .statsClear := by decide +kernel
theorem test_decode_statusRead : decode 0x700000002#36 = .instr (.statusRead 2) := by decide +kernel
theorem test_decode_reserved_op : decode 0x800000000#36 = .illegal .reservedOp
    ∧ decode 0xF00000000#36 = .illegal .reservedOp ∧ decode 0x9FFFFFFFF#36 = .illegal .reservedOp := by decide +kernel
theorem test_decode_reserved_bits : decode 0x000000001#36 = .illegal .reservedBits
    ∧ decode 0x100000100#36 = .illegal .reservedBits ∧ decode 0x200000001#36 = .illegal .reservedBits
    ∧ decode 0x301000001#36 = .illegal .reservedBits ∧ decode 0x500000008#36 = .illegal .reservedBits
    ∧ decode 0x680000000#36 = .illegal .reservedBits ∧ decode 0x700000004#36 = .illegal .reservedBits := by
  decide +kernel
theorem test_decode_reserved_operand : decode 0x500000004#36 = .illegal .reservedCounterId
    ∧ decode 0x500000007#36 = .illegal .reservedCounterId ∧ decode 0x700000003#36 = .illegal .reservedSelector := by
  decide +kernel

/-- No two rows of the opcode table overlap: their fixed bits differ somewhere. -/
theorem test_table_rows_do_not_overlap :
    opcodeTable.Pairwise (fun r q => r.mtch &&& (r.mask &&& q.mask) ≠ q.mtch &&& (r.mask &&& q.mask)) := by
  decide +kernel

theorem test_table_word : decodeTableWord 36 0x1000000FF = some (.ingest 0xFF)
    ∧ decodeTableWord 40 0x700000002 = some (.statusRead 2) ∧ decodeTableWord 36 0x900000000 = none := by
  decide +kernel

/-! ### The checksum: 95_test_vectors.md, sections 2.1 and 2.2 -/

theorem test_crc_check_value :
    crcSeq [0x31, 0x32, 0x33, 0x34, 0x35, 0x36, 0x37, 0x38, 0x39] = 0xF4 := by decide +kernel
theorem test_crc_vectors : crc8 0x80 0x00 0x00 = 0x0B ∧ crc8 0x00 0x00 0x01 = 0x07 ∧ crc8 0xFF 0xFF 0xFF = 0x0F
    ∧ crc8 0x7E 0x7E 0x7E = 0x42 ∧ crc8 0xFF 0x01 0x00 = 0x3E := by decide +kernel

/-! ### One step each: 95_test_vectors.md, sections 2.2 to 2.7 -/

theorem test_nop : shows (exec .nop three8) = some (some ⟨.ok, 0⟩, [0x01, 0x00, 0x00]) := by decide +kernel

/-- Section 2.4: the oldest byte goes, the new one is appended, `overflow_events` goes up. -/
theorem test_ingest_full : shows (exec (.ingest 0x01) (holding 4 0 [0x11, 0x22, 0x33, 0x44]))
      = some (some ⟨.accepted, 1⟩, [0x22, 0x33, 0x44, 0x01])
    ∧ counts (exec (.ingest 0x01) (holding 4 0 [0x11, 0x22, 0x33, 0x44])) = some [0, 0, 0, 1] := by decide +kernel
theorem test_ingest_room : shows (exec (.ingest 0x6B) three8)
    = some (some ⟨.accepted, 0⟩, [0x01, 0x00, 0x00, 0x6B]) := by decide +kernel

/-- Section 2.5: the window straddles the wrap, and `rd` ends at 2. -/
theorem test_poll_packet : shows (exec .poll valid8) = some (some ⟨.packet, 0x0100006B⟩, [])
    ∧ (after (exec .poll valid8)).map State.rd = some 2 ∧ counts (exec .poll valid8) = some [1, 0, 0, 0] := by
  decide +kernel
theorem test_poll_slip : shows (exec .poll slip8) = some (some ⟨.slip, 0xFF⟩, [0x01, 0x00, 0x00, 0x6B])
    ∧ counts (exec .poll slip8) = some [0, 1, 1, 0] := by decide +kernel

theorem test_encode : shows (exec (.encode 0x55 0xAA 0x55) three8)
    = some (some ⟨.packet, 0x55AA55D2⟩, [0x01, 0x00, 0x00]) := by decide +kernel

theorem test_validate_wrong : shows (exec (.validate 0x40 0x00 0x00 0x8C) empty8)
    = some (some ⟨.checksumError, 0x40000086⟩, []) := by decide +kernel
theorem test_validate_right : shows (exec (.validate 0xFF 0xFF 0xFF 0x0F) empty8)
    = some (some ⟨.packet, 0xFFFFFF0F⟩, []) := by decide +kernel

theorem test_statsRead : shows (exec (.statsRead 0) counted8) = some (some ⟨.value, 1⟩, [])
    ∧ shows (exec (.statsRead 3) counted8) = some (some ⟨.value, 0⟩, []) := by decide +kernel

theorem test_statsClear : shows (exec .statsClear counted8) = some (some ⟨.ok, 0⟩, [])
    ∧ counts (exec .statsClear counted8) = some [0, 0, 0, 0] := by decide +kernel

theorem test_statusRead : (after (exec (.statusRead 0) three8)).map State.response = some (some ⟨.value, 3⟩)
    ∧ (after (exec (.statusRead 1) three8)).map State.response = some (some ⟨.value, 8⟩)
    ∧ (after (exec (.statusRead 2) three8)).map State.response = some (some ⟨.value, 0⟩)
    ∧ (after (exec (.statusRead 2) full4)).map State.response = some (some ⟨.value, 1⟩) := by decide +kernel

/-- Section 2.7: five increments of a 2-bit counter. -/
theorem test_counter_width : incTimes ⟨4, 2, .wrap⟩ 5 0 = 1 ∧ incTimes ⟨4, 2, .saturate⟩ 5 0 = 3 := by decide +kernel

/-- The word given to `withFetchWord` is what the very next step runs, from reset. -/
theorem test_step_runs_fetch_word :
    (after (step (State.reset.withFetchWord 36 0x301000000))).map (fun t => t.control.answered)
      = some [⟨.packet, 0x0100006B⟩] := by decide +kernel

/-! ### Witnesses for the encoding statements -/

theorem witness_DecodeAfterEncode : (Instr.nop).wellFormed = true ∧ (Instr.ingest 0xFF).wellFormed = true
    ∧ Instr.poll.wellFormed = true ∧ (Instr.encode 0xFF 0 1).wellFormed = true
    ∧ (Instr.validate 0 0 0 1).wellFormed = true ∧ (Instr.statsRead 3).wellFormed = true
    ∧ Instr.statsClear.wellFormed = true ∧ (Instr.statusRead 2).wellFormed = true := by decide

theorem witness_EncodeAfterDecode : decode 0x4FFFFFFFF#36 = .instr (.validate 0xFF 0xFF 0xFF 0xFF) := by
  decide +kernel

theorem witness_DecoderFollowsOpcodeTable :
    decode 0x500000000#36 = .instr (.statsRead 0) ∧ decode 0x700000003#36 = .illegal .reservedSelector := by
  decide +kernel

theorem witness_OperandsStandWhereR91Says : (3#3).toNat < 4 ∧ (2#2).toNat < 3 := by decide

theorem witness_EverySingleBitFlipIsCaught : 31 < 32 ∧ validWord 0x0100006B = true := by decide +kernel

/-! ### Witnesses for the codec -/

theorem witness_EncodeAnswersThePacket : (0x01 : Byte) ≠ 0#8 := by decide

theorem witness_ValidateChecksThePacket :
    (0x6B : Byte) = crc8 0x01 0x00 0x00 ∧ (0x55 : Byte) ≠ crc8 0x01 0x00 0x00 := by decide +kernel

theorem witness_ValidateAcceptsWhatEncodeMade : ∃ u : State, exec (.encode 0x01 0x00 0x00) empty8 = .next u
    ∧ u.response = some ⟨.packet, 0x0100006B#32⟩ :=
  ⟨{ empty8 with response := some ⟨.packet, 0x0100006B⟩ }, next_of_after (by decide +kernel), rfl⟩

theorem witness_CodecIsPure : ((∃ t d0 d1, Instr.encode 1 2 3 = .encode t d0 d1)
      ∨ ∃ b0 b1 b2 b3, Instr.encode 1 2 3 = .validate b0 b1 b2 b3)
    ∧ ∃ t, exec (.encode 1 2 3) full4 = .next t := ⟨.inl ⟨1, 2, 3, rfl⟩, _, rfl⟩

/-! ### Witnesses for the synchronizer -/

theorem witness_IngestStoresTheByte : three8.count ≠ three8.cfg.cap ∧ full4.count = full4.cfg.cap
    ∧ (1 : BitVec 24) ≠ 0#24 := by decide +kernel

theorem witness_IngestFrame : (∃ t, exec (.ingest 0x6B) three8 = .next t) ∧ three8.count ≠ three8.cfg.cap
    ∧ (∃ t, exec (.ingest 0x6B) full4 = .next t) := ⟨⟨_, rfl⟩, by decide +kernel, ⟨_, rfl⟩⟩

theorem witness_IngestDropsOnlyTheOldest : full4.WF ∧ full4.count = full4.cfg.cap
    ∧ valid8.WF ∧ valid8.count < valid8.cfg.cap :=
  ⟨wf_full4, by decide +kernel, wf_valid8, by decide +kernel⟩

theorem witness_PollWithTooFewBytesIsEmpty : three8.count = 3 ∧ three8.count < 4 := by decide +kernel

/-- Valid and invalid windows of 4 bytes or more, and 3 bytes. -/
theorem witness_PollTestsTheWindow : valid8.WF ∧ 4 ≤ valid8.count
    ∧ (after (exec .poll valid8)).bind State.response = some ⟨.packet, 0x0100006B⟩
    ∧ slip8.WF ∧ 4 ≤ slip8.count ∧ (after (exec .poll slip8)).bind State.response = some ⟨.slip, 0xFF⟩
    ∧ three8.WF ∧ three8.count < 4 ∧ (1 : Word) ≠ 0#32 :=
  ⟨wf_valid8, by decide +kernel, by decide +kernel, wf_slip8, by decide +kernel, by decide +kernel, wf_three8,
    by decide +kernel, by decide⟩

theorem witness_PollFrame : ∃ t, exec .poll slip8 = .next t ∧ t ≠ slip8 :=
  ⟨_, next_of_after (t := { slip8 with rd := 1, count := 4, checksumFailures := 1, resyncEvents := 1,
                                       response := some ⟨.slip, 0xFF⟩ }) (by decide +kernel), by decide +kernel⟩

/-- Both sides of the statement occur: an unwritten window, and a written one. -/
theorem witness_OnlyPollOfUnwrittenByteFaults :
    (4 ≤ unwritten8.count ∧ Memory.read unwritten8.mem 3 = none ∧ exec .poll unwritten8 = .fault (.unwrittenByte 0))
    ∧ ∃ t, exec .poll full4 = .next t := by
  exact ⟨⟨by decide +kernel, rfl, rfl⟩, (runs_iff _).1 (by decide +kernel)⟩

/-- R139's clauses: SEEKING to ALIGNED at the fourth byte, SEEKING at the third, ALIGNED before an INGEST; a POLL in
each state; another command. -/
theorem witness_BoundaryDetectorTransitions :
    (three8.WF ∧ three8.syncState = .seeking ∧ (after (exec (.ingest 0x6B) three8)).map State.count = some 4)
    ∧ (empty8.WF ∧ empty8.syncState = .seeking ∧ (after (exec (.ingest 0x6B) empty8)).map State.count = some 1)
    ∧ (full4.WF ∧ full4.syncState = .aligned ∧ Runs (exec (.ingest 0x6B) full4))
    ∧ Runs (exec .poll three8)
    ∧ (slip8.syncState = .aligned ∧ Runs (exec .poll slip8))
    ∧ Runs (exec .nop slip8) :=
  ⟨⟨wf_three8, by decide +kernel, by decide +kernel⟩, ⟨wf_empty8, by decide +kernel, by decide +kernel⟩,
    ⟨wf_full4, by decide +kernel, by decide +kernel⟩, by decide +kernel, ⟨by decide +kernel, by decide +kernel⟩,
    by decide +kernel⟩

theorem witness_PollsUntilPacketOrEmpty : slip8.WF ∧ 4 ≤ slip8.count := ⟨wf_slip8, by decide +kernel⟩

/-- One garbage byte before a packet (program P1). -/
theorem witness_RecoveryAfterGarbage : slip8.WF
    ∧ slip8.buf = [0xFF#8] ++ [0x01#8, 0x00#8, 0x00#8, 0x6B#8] ++ [] ∧ 0x6B#8 = crc8 0x01#8 0x00#8 0x00#8
    ∧ ∀ j, j < [0xFF#8].length → ∀ x0 x1 x2 x3 l, slip8.buf.drop j = x0 :: x1 :: x2 :: x3 :: l →
        x3 ≠ crc8 x0 x1 x2 := by
  refine ⟨wf_slip8, by decide +kernel, by decide +kernel, ?_⟩
  intro j hj x0 x1 x2 x3 l h
  have hj0 : j = 0 := by simpa using hj
  subst hj0
  rw [show slip8.buf.drop 0 = [0xFF#8, 0x01#8, 0x00#8, 0x00#8, 0x6B#8] by decide +kernel] at h
  injection h with h0 h
  injection h with h1 h
  injection h with h2 h
  injection h with h3 h
  subst h0 h1 h2 h3
  decide +kernel

theorem witness_FalseLockIsEmitted : lock8.WF
    ∧ lock8.buf = [0xD9#8, 0x01#8, 0x00#8, 0x00#8, 0x6B#8] := ⟨wf_lock8, by decide +kernel⟩

theorem witness_OverflowKeepsTheLastCapBytes : full4.WF ∧ full4.cfg.cap < full4.count + [0x55#8].length :=
  ⟨wf_full4, by decide +kernel⟩

theorem witness_IngestPktIsEmittedByPoll : empty8.WF ∧ empty8.count = 0 := ⟨wf_empty8, rfl⟩

/-- CAP 4 and CNT_W 1: the least of each, so one packet takes `rx_packets` to its maximum. -/
def least : Config := ⟨4, 1, .wrap⟩

/-- One packet ingested and polled. -/
def onePacket : List Command :=
  [0x100000001#36, 0x100000000#36, 0x100000000#36, 0x10000006B#36, 0x200000000#36]

/-- The state after `n` of the four INGESTs, from reset. -/
def fed (n : Nat) : State :=
  { State.resetWith least with
    count := n, mem := storeAt 4 0 ([0x01#8, 0x00#8, 0x00#8, 0x6B#8].take n), response := some ⟨.accepted, 0⟩ }

/-- The state after the POLL. -/
def polled : State := { fed 4 with rd := 0, count := 0, rxPackets := 1, response := some ⟨.packet, 0x0100006B⟩ }

theorem fed_1 : perform 0x100000001#36 (State.resetWith least) = .next (fed 1) := next_of_after (by decide +kernel)
theorem fed_2 : perform 0x100000000#36 (fed 1) = .next (fed 2) := next_of_after (by decide +kernel)
theorem fed_3 : perform 0x100000000#36 (fed 2) = .next (fed 3) := next_of_after (by decide +kernel)
theorem fed_4 : perform 0x10000006B#36 (fed 3) = .next (fed 4) := next_of_after (by decide +kernel)
theorem polled_1 : perform 0x200000000#36 (fed 4) = .next polled := next_of_after (by decide +kernel)

theorem onePacket_responses : responsesOf onePacket (State.resetWith least)
    = [⟨.accepted, 0#32⟩, ⟨.accepted, 0#32⟩, ⟨.accepted, 0#32⟩, ⟨.accepted, 0#32⟩, ⟨.packet, 0x0100006B#32⟩] := by
  simp only [onePacket, responsesOf, fed_1, fed_2, fed_3, fed_4, polled_1]
  rfl

theorem wf_least : (State.resetWith least).WF := wf_of_check (by decide +kernel)

/-- A run in which a packet is emitted, and a state that already holds bytes. -/
theorem witness_PacketsAreConsecutiveIngestedBytes : (State.resetWith least).WF
    ∧ performAll onePacket (State.resetWith least) = .next polled
    ∧ emittedPackets onePacket (State.resetWith least) = [0x0100006B#32]
    ∧ slip8.WF ∧ slip8.buf ≠ [] := by
  refine ⟨wf_least, ?_, ?_, wf_slip8, by decide +kernel⟩
  · simp only [onePacket, performAll, fed_1, fed_2, fed_3, fed_4, polled_1]
  · simp only [onePacket, emittedPackets, fed_1, fed_2, fed_3, fed_4, polled_1]
    decide +kernel

/-- The premises about STATS_CLEAR and the maximum, at the boundary: one packet and CNT_W = 1. -/
theorem witness_BytesAreAccountedFor : (State.resetWith least).WF
    ∧ (∀ x ∈ onePacket, decode x ≠ .instr .statsClear)
    ∧ (State.resetWith least).rxPackets + (emittedPackets onePacket (State.resetWith least)).length = least.cntMax
    ∧ (State.resetWith least).resyncEvents + countCode .slip (responsesOf onePacket (State.resetWith least))
      ≤ least.cntMax
    ∧ (State.resetWith least).checksumFailures + countCode .slip (responsesOf onePacket (State.resetWith least))
      ≤ least.cntMax
    ∧ (State.resetWith least).overflowEvents + countDrops (responsesOf onePacket (State.resetWith least))
      ≤ least.cntMax := by
  refine ⟨wf_least, ?_, ?_, ?_, ?_, ?_⟩
  · intro x hx
    simp only [onePacket, List.mem_cons, List.not_mem_nil, or_false] at hx
    rcases hx with rfl | rfl | rfl | rfl | rfl <;> decide +kernel
  · rw [witness_PacketsAreConsecutiveIngestedBytes.2.2.1]; decide
  · rw [onePacket_responses]; decide +kernel
  · rw [onePacket_responses]; decide +kernel
  · rw [onePacket_responses]; decide +kernel

theorem witness_StoredBufferRefinesAbstractBuffer : slip8.WF ∧ Instr.poll.wellFormed = true := ⟨wf_slip8, rfl⟩

/-- Two different states with one abstract view: another cursor, and a stale byte. -/
theorem witness_SameBufSameResponses : ∃ s t : State, s.WF ∧ t.WF ∧ s.abs = t.abs ∧ s ≠ t :=
  ⟨holding 8 0 [0x01, 0x00, 0x00, 0x6B], valid8, wf_of_check (by decide +kernel), wf_valid8, by decide +kernel,
    by decide +kernel⟩

/-! ### Witnesses for the control family and the counters -/

theorem witness_NopAnswersOk : (0x80000000 : Word) ≠ 0#32 := by decide

theorem witness_StatsReadAnswersTheCounter :
    4 ≤ (4#3).toNat ∧ 4 ≤ (7#3).toNat ∧ (1 : BitVec 29) ≠ 0#29 ∧ slip8.WF := ⟨by decide, by decide, by decide, wf_slip8⟩

theorem witness_StatsClearZeroesTheCounters : (1 : Word) ≠ 0#32 := by decide

theorem witness_StatusReadAnswersTheStatus : (1 : BitVec 30) ≠ 0#30 ∧ full4.WF := ⟨by decide, wf_full4⟩

/-- A value below the maximum, and both values of CNT_OVF. -/
theorem witness_IncrementAtTheTop : Config.Legal ⟨4, 1, .wrap⟩ ∧ 0 < 2 ^ 1 - 1
    ∧ Config.Legal ⟨4, 32, .saturate⟩ ∧ 2 ^ 32 - 2 < 2 ^ 32 - 1 := by decide

/-- Each case of the statement: the four owners of a counter, and STATS_CLEAR. -/
theorem witness_CountersChangeOnlyByTheirOwner :
    counts (exec .poll valid8) = some [1, 0, 0, 0] ∧ counts (exec .poll slip8) = some [0, 1, 1, 0]
    ∧ counts (exec (.ingest 0xC0) full4) = some [0, 0, 0, 1] ∧ counts (exec .statsClear counted8) = some [0, 0, 0, 0]
    ∧ counts (exec (.validate 0 0 0 1) counted8) = some [1, 1, 1, 0]
    ∧ (after (exec (.validate 0 0 0 1) counted8)).bind State.response = some ⟨.checksumError, 0⟩ := by decide +kernel

/-- Each of the five cases: a packet, a slip, a drop, an append, and no move. -/
theorem witness_CursorAndCountMoves :
    (valid8.WF ∧ (after (exec .poll valid8)).map (fun t => (t.rd, t.count)) = some (2, 0))
    ∧ (slip8.WF ∧ (after (exec .poll slip8)).map (fun t => (t.rd, t.count)) = some (1, 4))
    ∧ (full4.WF ∧ (after (exec (.ingest 0xC0) full4)).map (fun t => (t.rd, t.count)) = some (1, 4))
    ∧ (three8.WF ∧ (after (exec (.ingest 0xC0) three8)).map (fun t => (t.rd, t.count)) = some (0, 4))
    ∧ (three8.WF ∧ (after (exec .poll three8)).map (fun t => (t.rd, t.count)) = some (0, 3)) :=
  ⟨⟨wf_valid8, by decide +kernel⟩, ⟨wf_slip8, by decide +kernel⟩, ⟨wf_full4, by decide +kernel⟩,
    ⟨wf_three8, by decide +kernel⟩, ⟨wf_three8, by decide +kernel⟩⟩

/-- A storage that agrees with `slip8` on the window and differs outside it. -/
theorem witness_OnlyIngestAndPollTouchMem : ∃ m : Memory, m ≠ slip8.mem
    ∧ (∀ k, k < 4 → Memory.read m ((slip8.rd + k) % slip8.cfg.cap)
        = Memory.read slip8.mem ((slip8.rd + k) % slip8.cfg.cap))
    ∧ Runs (exec .poll slip8) ∧ Runs (exec (.ingest 1) slip8)
    ∧ Runs (exec .nop slip8) :=
  ⟨Memory.write slip8.mem 7 0x99, by decide +kernel⟩

theorem witness_ReadsAreIdempotent : Runs (exec (.validate 0 0 0 1) slip8)
    ∧ three8.WF ∧ three8.count + 2 ≤ three8.cfg.cap
    ∧ ((after (exec (.ingest 0x6B) three8)).bind (fun t => after (exec (.ingest 0x6B) t))).isSome = true :=
  ⟨by decide +kernel, wf_three8, by decide +kernel, by decide +kernel⟩

/-! ### Witnesses for exceptions, steps and reset -/

/-- One command for each clause of R175, at the edge of its range. -/
theorem witness_IllegalCommandChangesNothing :
    8 ≤ ((0x800000000#36).extractLsb' 32 4).toNat
    ∧ (((0x700000004#36).extractLsb' 32 4).toNat < 8
        ∧ (0x700000004#36).extractLsb' 0 32 &&& resMask ((0x700000004#36).extractLsb' 32 4) ≠ 0#32)
    ∧ ((0x500000004#36).extractLsb' 32 4 = 0x5#4 ∧ 4 ≤ ((0x500000004#36).extractLsb' 0 3).toNat)
    ∧ ((0x700000003#36).extractLsb' 32 4 = 0x7#4 ∧ (0x700000003#36).extractLsb' 0 2 = 3#2) := by decide +kernel

/-- P7's state: both ports present their command together. The order of turns is the argument. -/
def together (turns : List Agent) : State :=
  { full4 with ingress := ⟨[encode (.ingest 0xC0)], []⟩, consumer := ⟨[encode .poll], []⟩, turns := turns }

theorem wf_together (turns : List Agent) : (together turns).WF :=
  ⟨wf_full4.cfg, wf_full4.mem, wf_full4.memBound, wf_full4.rd, wf_full4.count, wf_full4.unread, wf_full4.rxPackets,
    wf_full4.checksumFailures, wf_full4.resyncEvents, wf_full4.overflowEvents⟩

/-- Program P7, both orders: the responses, `Buf` and the counters. -/
theorem test_both_orders :
    (after (Host.Core.run core 2 (together [.port .consumer, .port .ingress]))).map
        (fun t => (t.ingress.answered, t.consumer.answered, t.buf))
      = some ([⟨.accepted, 0⟩], [⟨.packet, 0x0100006B⟩], [0xC0])
    ∧ (after (Host.Core.run core 2 (together [.port .ingress, .port .consumer]))).map
        (fun t => (t.ingress.answered, t.consumer.answered, t.buf))
      = some ([⟨.accepted, 1⟩], [⟨.slip, 0⟩], [0x00, 0x6B, 0xC0]) := by decide +kernel

/-- A state that no run reaches, with a POLL presented whose window is unwritten. -/
def presented8 : State := { unwritten8 with consumer := ⟨[encode .poll], []⟩, turns := [.port .consumer] }

/-- A step that runs a command, and one whose command faults. -/
theorem witness_StepRunsTheDecodedCommand :
    ((together [.port .consumer]).turns = .port .consumer :: [] ∧
      ((together [.port .consumer]).port .consumer).commands = encode .poll :: [] ∧
      decode (encode .poll) = .instr .poll ∧
      Runs (exec .poll (((together [.port .consumer]).spendTurn []).accept .consumer [])))
    ∧ (presented8.turns = .port .consumer :: [] ∧ (presented8.port .consumer).commands = encode .poll :: [] ∧
      exec .poll ((presented8.spendTurn []).accept .consumer []) = .fault (.unwrittenByte 0)) :=
  ⟨by decide +kernel, rfl, rfl, rfl⟩

theorem witness_StepAnswersIllegalCommand : ∃ s : State, s.turns = .port .control :: []
    ∧ (s.port .control).commands = 0x900000000#36 :: [] ∧ decode 0x900000000#36 = .illegal .reservedOp :=
  ⟨{ full4 with control := ⟨[0x900000000#36], []⟩, turns := [.port .control] }, rfl, rfl, by decide +kernel⟩

theorem witness_StepWithNothingPresented : full4.turns = []
    ∧ ∃ s : State, s.turns = .port .ingress :: [] ∧ (s.port .ingress).commands = [] :=
  ⟨rfl, { full4 with turns := [.port .ingress] }, rfl, rfl⟩

theorem witness_OneResponsePerCommand : (together [.port .ingress]).turns = .port .ingress :: []
    ∧ ((together [.port .ingress]).port .ingress).commands = encode (.ingest 0xC0) :: []
    ∧ Runs (step (together [.port .ingress])) ∧ Port.consumer ≠ Port.ingress := by decide +kernel

/-- A port with two commands, of which a run of one step performs one. -/
theorem witness_EachPortKeepsItsOrder :
    (after (Host.Core.run core 1 { full4 with control := ⟨[encode .nop, encode .poll], []⟩, turns := [.port .control] })).map
      (fun t => (t.control.commands, t.control.answered)) = some ([encode .poll], [⟨.ok, 0⟩]) := by decide +kernel

theorem witness_IngestAndPollInEitherOrder (turns : List Agent) : (together turns).WF
    ∧ (together turns).count = (together turns).cfg.cap
    ∧ (together turns).ingress.commands = encode (.ingest 0xC0) :: []
    ∧ (together turns).consumer.commands = encode .poll :: [] ∧ (together turns).turns = turns :=
  ⟨wf_together turns, rfl, rfl, rfl, rfl⟩

theorem witness_ResetStep : (together [.reset, .port .ingress]).turns = .reset :: [.port .ingress] := rfl

theorem witness_CommandPresentedWithReset (p : Port) : (together [.port p, .reset]).WF ∧ (together [.reset]).WF
    ∧ ((together [.port .consumer, .reset]).port .consumer).commands = encode .poll :: []
    ∧ (together [.port .consumer, .reset]).turns = .port .consumer :: .reset :: []
    ∧ (together [.reset]).turns = .reset :: []
    ∧ ((together [.reset]).port .consumer).commands = encode .poll :: [] :=
  ⟨wf_together _, wf_together _, rfl, rfl, rfl, rfl⟩

theorem witness_ResetMeetsTheInvariant : Config.Legal ⟨4, 1, .wrap⟩ ∧ Config.Legal ⟨0xFFFFFFFF, 32, .saturate⟩ := by
  decide

theorem witness_StepKeepsTheInvariant : (together [.port .ingress]).WF
    ∧ Runs (step (together [.port .ingress])) := ⟨wf_together _, by decide +kernel⟩

theorem witness_SlipCountersStayEqual : Runs (step (together [.port .ingress]))
    ∧ (together [.port .ingress]).checksumFailures = (together [.port .ingress]).resyncEvents := by decide +kernel

theorem witness_NothingStopsTheBlock : (together [.port .ingress, .reset, .port .consumer]).WF := wf_together _

theorem witness_ConfigurationNeverChanges :
    Runs (Host.Core.run core 2 (together [.port .consumer, .reset])) := by decide +kernel

end Sys2Proof.Tests
end

section
/-! SUPPORT. The scope of the model (00_scope.md): the counter increment of R12, and the step of R13. -/

namespace Sys2Proof.Machine

/-! The counter increment at the top of the range (R12). -/

theorem inc_cntMax_of_wrap {cfg : Config} (h : cfg.cntOvf = .wrap) : inc cfg cfg.cntMax = 0 := by
  simp [inc, h]

theorem inc_cntMax_of_saturate {cfg : Config} (h : cfg.cntOvf = .saturate) : inc cfg cfg.cntMax = cfg.cntMax := by
  simp [inc, h]

/-- Settles O41: the two values at the maximum are the two branches of `CNT_OVF`, and the bound holds in every branch. -/
theorem incrementAtTheTop : Obligations.IncrementAtTheTop := fun c _ =>
  ⟨inc_of_lt c, inc_cntMax_of_wrap, inc_cntMax_of_saturate, inc_le c⟩

/-! A port's turn on a command that decodes to an operation (R13, R61, R71). -/

@[simp] theorem mapNext_next (f : State → State) (t : State) : mapNext f (.next t) = .next (f t) := rfl

@[simp] theorem mapNext_fault (f : State → State) (r : Fault) : mapNext f (.fault r) = .fault r := rfl

/-- The step is the operation's meaning, on the state that has given up the turn and the command; its response goes to
the port that presented it. -/
theorem step_port_instr {s : State} {p : Port} {rest : List Agent} {c : Command} {cs : List Command} {i : Instr}
    (ht : s.turns = .port p :: rest) (hc : (s.port p).commands = c :: cs) (hd : decode c = .instr i) :
    step s = mapNext (State.deliver p) (exec i ((s.spendTurn rest).accept p cs)) := by
  rw [step_port ht hc, perform_instr hd]

/-- What a turn and its command taken off leave: only the turns, the response and that port's commands differ. -/
theorem State.accept_spendTurn (p : Port) (rest : List Agent) (cs : List Command) (s : State) :
    (s.spendTurn rest).accept p cs
      = ({ s with turns := rest, response := none } : State).setPort p { s.port p with commands := cs } := by
  cases p <;> rfl

/-- Settles O48: the step is `mapNext` of the operation's outcome, read off for a next state and for a fault. -/
theorem stepRunsTheDecodedCommand : Obligations.StepRunsTheDecodedCommand := by
  intro s p rest c cs i ht hc hd
  have hstep := step_port_instr ht hc hd
  refine ⟨fun t h => ?_, fun f h => ?_, State.accept_spendTurn p rest cs s⟩
  · rw [hstep, h, mapNext_next]
  · rw [hstep, h, mapNext_fault]

end Sys2Proof.Machine
end

section
/-! SUPPORT. What one operation can do, said once: `Effect` lists the outcomes of R114 to R153 by name, and `exec_effect`
inverts `exec` into it. The rules of 10_state.md about single operations are read off its cases. -/

namespace Sys2Proof.Machine

/-! The operations that only read (R57). -/

/-- NOP, ENCODE, VALIDATE, STATS_READ and STATUS_READ write their response only, which is never SLIP, and `mem` has no
part in it. -/
theorem exec_of_reads {i : Instr} (hp : i ≠ .poll) (hi : ∀ b, i ≠ .ingest b) (hc : i ≠ .statsClear) (s : State) :
    ∃ r : Response, r.code ≠ .slip ∧
      ∀ m : Memory, exec i { s with mem := m } = .next { s with mem := m, response := some r } := by
  cases i with
  | nop => exact ⟨⟨.ok, 0#32⟩, by decide, fun _ => rfl⟩
  | ingest b => exact absurd rfl (hi b)
  | poll => exact absurd rfl hp
  | encode t d0 d1 => exact ⟨⟨.packet, pack t d0 d1 (crc8 t d0 d1)⟩, by simp, fun _ => rfl⟩
  | validate b0 b1 b2 b3 =>
    cases hv : valid b0 b1 b2 b3
    · exact ⟨⟨.checksumError, correctedWord (pack b0 b1 b2 b3)⟩, by simp, fun _ => by
        simp [exec, execValidate, hv, State.raise, State.respond]⟩
    · exact ⟨⟨.packet, pack b0 b1 b2 b3⟩, by simp, fun _ => by simp [exec, execValidate, hv, State.respond]⟩
  | statsRead id =>
    have hm (m : Memory) : State.counter { s with mem := m } id = s.counter id := rfl
    cases hv : s.counter id with
    | none => exact ⟨⟨.illegal, 0#32⟩, by simp, fun m => by
        simp [exec, execStatsRead, hm, hv, State.raise, State.respond]⟩
    | some v => exact ⟨⟨.value, BitVec.ofNat 32 v⟩, by simp, fun m => by
        simp [exec, execStatsRead, hm, hv, State.respond]⟩
  | statsClear => exact absurd rfl hc
  | statusRead sel =>
    have hm (m : Memory) : State.status { s with mem := m } sel = s.status sel := rfl
    cases hv : s.status sel with
    | none => exact ⟨⟨.illegal, 0#32⟩, by simp, fun m => by
        simp [exec, execStatusRead, hm, hv, State.raise, State.respond]⟩
    | some v => exact ⟨⟨.value, v⟩, by simp, fun m => by simp [exec, execStatusRead, hm, hv, State.respond]⟩

theorem State.full_eq_false_iff (s : State) : s.full = false ↔ s.count ≠ s.cfg.cap := by
  simp [State.full]

/-! POLL, one equation per outcome that completes (R135, R136, R137). -/

theorem execPoll_of_few {s : State} (hn : s.count < 4) : execPoll s = .next (s.respond .empty 0#32) := if_pos hn

theorem execPoll_of_valid {s : State} {w : Word} (hn : 4 ≤ s.count) (hw : s.window = some w) (hv : validWord w = true) :
    execPoll s = .next ((s.advance 4).countPacket.respond .packet w) := by
  simp [execPoll, Nat.not_lt.mpr hn, hw, hv]

theorem execPoll_of_invalid {s : State} {w : Word} (hn : 4 ≤ s.count) (hw : s.window = some w)
    (hv : validWord w = false) : execPoll s = .next ((s.advance 1).raise (.syncChecksum w)) := by
  simp [execPoll, Nat.not_lt.mpr hn, hw, hv]

/-! Every operation. -/

/-- What an operation that completes has done to a state. -/
inductive Effect (s : State) : Instr → State → Prop where
  /-- R135. -/
  | pollEmpty (hn : s.count < 4) : Effect s .poll (s.respond .empty 0#32)
  /-- R136. -/
  | pollPacket (w : Word) (hn : 4 ≤ s.count) (hw : s.window = some w) (hv : validWord w = true) :
      Effect s .poll ((s.advance 4).countPacket.respond .packet w)
  /-- R137. -/
  | pollSlip (w : Word) (hn : 4 ≤ s.count) (hw : s.window = some w) (hv : validWord w = false) :
      Effect s .poll ((s.advance 1).raise (.syncChecksum w))
  /-- R131, R132. -/
  | ingestDrop (b : Byte) (hf : s.full = true) : Effect s (.ingest b) ((s.makeRoom.append b).raise .bufferOverflow)
  /-- R131. -/
  | ingestRoom (b : Byte) (hf : s.full = false) : Effect s (.ingest b) ((s.makeRoom.append b).respond .accepted 0#32)
  /-- R152. -/
  | clear : Effect s .statsClear (s.clearCounters.respond .ok 0#32)
  /-- R57. -/
  | read (i : Instr) (r : Response) (hp : i ≠ .poll) (hi : ∀ b, i ≠ .ingest b) (hc : i ≠ .statsClear)
      (hr : r.code ≠ .slip) : Effect s i (s.respond r.code r.data)

theorem execPoll_effect {s t : State} (h : execPoll s = .next t) : Effect s .poll t := by
  obtain ⟨hn, he⟩ | ⟨_, _, he⟩ | ⟨hn, w, hw, hv, he⟩ | ⟨hn, w, hw, hv, he⟩ := execPoll_cases s <;>
    rw [he] at h <;> cases h
  · exact .pollEmpty hn
  · exact .pollPacket w hn hw hv
  · exact .pollSlip w hn hw hv

theorem execIngest_effect {b : Byte} {s t : State} (h : execIngest b s = .next t) : Effect s (.ingest b) t := by
  rw [execIngest_next] at h
  cases hf : s.full <;> rw [hf] at h <;> cases h
  · exact .ingestRoom b hf
  · exact .ingestDrop b hf

/-- Every operation that completes has one of the effects. -/
theorem exec_effect {i : Instr} {s t : State} (h : exec i s = .next t) : Effect s i t := by
  by_cases hp : i = .poll
  · subst hp; exact execPoll_effect h
  by_cases hi : ∃ b, i = .ingest b
  · obtain ⟨b, rfl⟩ := hi; exact execIngest_effect h
  by_cases hc : i = .statsClear
  · subst hc; cases h; exact .clear
  have hi : ∀ b, i ≠ .ingest b := fun b hb => hi ⟨b, hb⟩
  obtain ⟨r, hr, he⟩ := exec_of_reads hp hi hc s
  obtain rfl : s.respond r.code r.data = t := by simpa [State.respond] using (he s.mem).symm.trans h
  exact .read i r hp hi hc hr

/-! Each counter has one owner (R30 to R34). -/

/-- Settles O42: only the owner's effect holds the counter's increment, and its response tells it from the others. -/
theorem countersChangeOnlyByTheirOwner : Obligations.CountersChangeOnlyByTheirOwner := by
  intro i s t r h hr
  cases exec_effect h with
  | pollEmpty hn => cases hr; simp
  | pollPacket w hn hw hv => cases hr; simp
  | pollSlip w hn hw hv => cases hr; simp [State.raise]
  | ingestDrop b hf => cases hr; simp [State.raise, (State.full_iff s).mp hf]
  | ingestRoom b hf =>
    cases hr; simp [(State.full_eq_false_iff s).mp hf]
  | clear => cases hr; simp
  | read _ r' hp hi hc hs => cases hr; simp [hp, hi, hc]

/-! The cursor and the count (R23, R24). -/

/-- Settles O43: the cases of the statement are the effects, with the bounds of the invariant for a full buffer. -/
theorem cursorAndCountMoves : Obligations.CursorAndCountMoves := by
  intro i s t r hwf h hr
  have hcap := hwf.cfg.1
  have hcount := hwf.count
  cases exec_effect h with
  | pollEmpty hn => cases hr; simp
  | pollPacket w hn hw hv => cases hr; exact .inl ⟨rfl, rfl, rfl, Nat.sub_add_cancel hn⟩
  | pollSlip w hn hw hv => cases hr; exact .inr (.inl ⟨rfl, rfl, rfl, Nat.sub_add_cancel (by omega)⟩)
  | ingestDrop b hf =>
    have he := (State.full_iff s).mp hf
    rw [State.makeRoom_of_full s hf]
    refine .inr (.inr (.inl ⟨⟨b, rfl⟩, he, rfl, ?_⟩))
    show s.count - 1 + 1 = s.cfg.cap
    omega
  | ingestRoom b hf =>
    have hne := (State.full_eq_false_iff s).mp hf
    rw [State.makeRoom_of_not_full s hf]
    exact .inr (.inr (.inr (.inl ⟨⟨b, rfl⟩, by omega, rfl, rfl⟩)))
  | clear => cases hr; simp
  | read _ r' hp hi hc hs => cases hr; simp [hp, hi, hs]

/-! `mem` (R22): who reads and who writes it. -/

/-- The window depends on the storage in its four bytes only. -/
theorem State.window_congr_mem (s : State) (m : Memory)
    (h : ∀ k, k < 4 → Memory.read m ((s.rd + k) % s.cfg.cap) = Memory.read s.mem ((s.rd + k) % s.cfg.cap)) :
    State.window { s with mem := m } = s.window := by
  have hb (k : Nat) (hk : k < 4) : State.byteAt { s with mem := m } k = s.byteAt k := h k hk
  simp only [State.window, hb 0 (by decide), hb 1 (by decide), hb 2 (by decide), hb 3 (by decide)]

/-- Settles O44: reading operations by `exec_of_reads`, INGEST by its effect, POLL by its effect on the same window. -/
theorem onlyIngestAndPollTouchMem : Obligations.OnlyIngestAndPollTouchMem := by
  refine ⟨fun i s t m hp hi h => ?_, fun b s t h => ?_, fun s t m h hm => ?_⟩
  · by_cases hc : i = .statsClear
    · subst hc; cases h; exact ⟨rfl, rfl⟩
    · obtain ⟨r, _, he⟩ := exec_of_reads hp hi hc s
      cases (he s.mem).symm.trans h
      exact ⟨rfl, he m⟩
  · cases exec_effect h with
    | ingestDrop _ hf => simp
    | ingestRoom _ hf => simp
    | read _ r hp hi hc hr => exact absurd rfl (hi b)
  · have hwm := State.window_congr_mem s m hm
    cases exec_effect h with
    | pollEmpty hn => exact ⟨rfl, execPoll_of_few (s := { s with mem := m }) hn⟩
    | pollPacket w hn hw hv => exact ⟨rfl, execPoll_of_valid (s := { s with mem := m }) hn (hwm.trans hw) hv⟩
    | pollSlip w hn hw hv => exact ⟨rfl, execPoll_of_invalid (s := { s with mem := m }) hn (hwm.trans hw) hv⟩
    | read _ r hp hi hc hr => exact absurd rfl hp

/-! When an operation completes (log entry 2). -/

/-- The window is missing exactly when one of its bytes is. -/
theorem State.window_eq_none_iff (s : State) : s.window = none ↔ ∃ k, k < 4 ∧ s.byteAt k = none := by
  constructor
  · intro h
    by_contra hall
    have hb (k : Nat) (hk : k < 4) : ∃ b, s.byteAt k = some b :=
      Option.ne_none_iff_exists'.mp fun hn => hall ⟨k, hk, hn⟩
    obtain ⟨b0, h0⟩ := hb 0 (by decide)
    obtain ⟨b1, h1⟩ := hb 1 (by decide)
    obtain ⟨b2, h2⟩ := hb 2 (by decide)
    obtain ⟨b3, h3⟩ := hb 3 (by decide)
    simp [State.window, h0, h1, h2, h3] at h
  · rintro ⟨k, hk, hn⟩
    interval_cases k <;> simp [State.window, hn]

/-- POLL completes exactly when it has too few bytes or a whole window. -/
theorem execPoll_completes_iff (s : State) : (∃ t, execPoll s = .next t) ↔ s.count < 4 ∨ s.window ≠ none := by
  obtain ⟨hn, he⟩ | ⟨hn, hw, he⟩ | ⟨hn, w, hw, hv, he⟩ | ⟨hn, w, hw, hv, he⟩ := execPoll_cases s
  · exact ⟨fun _ => .inl hn, fun _ => ⟨_, he⟩⟩
  · simp [he, hw, Nat.not_lt.mpr hn]
  · exact ⟨fun _ => .inr (by simp [hw]), fun _ => ⟨_, he⟩⟩
  · exact ⟨fun _ => .inr (by simp [hw]), fun _ => ⟨_, he⟩⟩

theorem exec_completes_of_ne_poll {i : Instr} (hp : i ≠ .poll) (s : State) : ∃ t, exec i s = .next t := by
  cases i with
  | poll => exact absurd rfl hp
  | _ => exact ⟨_, rfl⟩

/-- Settles O23: the one operation that can stop is POLL, and its stop is a missing byte of the window. -/
theorem onlyPollOfUnwrittenByteFaults : Obligations.OnlyPollOfUnwrittenByteFaults := by
  intro i s
  by_cases hp : i = .poll
  · subst hp
    have hiff : (¬ ∃ t, exec .poll s = .next t) ↔ 4 ≤ s.count ∧ s.window = none := by
      rw [show (∃ t, exec .poll s = .next t) ↔ _ from execPoll_completes_iff s]
      simp
    rw [hiff, State.window_eq_none_iff]
    exact ⟨fun h => ⟨rfl, h⟩, fun h => h.2⟩
  · simp only [hp, false_and, iff_false, not_not]
    exact exec_completes_of_ne_poll hp s

end Sys2Proof.Machine
end

section
/-! SUPPORT. The invariant of R26 along operations, commands, steps and runs, and the parameters (R41). -/

namespace Sys2Proof.Machine

/-- From a state that meets the invariant every operation completes (R170). -/
theorem State.WF.exec_completes {s : State} (h : s.WF) (i : Instr) : ∃ t, exec i s = .next t := by
  by_contra hstop
  obtain ⟨_, hn, k, hk, hnone⟩ := (onlyPollOfUnwrittenByteFaults i s).mp hstop
  have hsome := h.unread k (by omega)
  rw [show s.byteAt k = none from hnone] at hsome
  exact Bool.noConfusion hsome

theorem State.WF.effect {i : Instr} {s t : State} (h : s.WF) (he : Effect s i t) : t.WF := by
  cases he with
  | pollEmpty hn => exact h.respond _ _
  | pollPacket w hn hw hv => exact (h.advance 4 hn).countPacket.respond _ _
  | pollSlip w hn hw hv => exact (h.advance 1 (by omega)).raise _
  | ingestDrop b hf => exact (h.makeRoom.1.append b h.makeRoom.2).raise _
  | ingestRoom b hf => exact (h.makeRoom.1.append b h.makeRoom.2).respond _ _
  | clear => exact h.clearCounters.respond _ _
  | read _ r hp hi hc hr => exact h.respond _ _

theorem State.WF.perform {c : Command} {s t : State} (h : s.WF) (hp : perform c s = .next t) : t.WF := by
  cases hd : decode c with
  | instr i => rw [perform_instr hd] at hp; exact h.effect (exec_effect hp)
  | illegal r => rw [perform_illegal hd] at hp; cases hp; exact h.raise _

/-- Settles O58: what a step can do is a reset, a spent turn or a command, and each keeps the invariant. -/
theorem stepKeepsTheInvariant : Obligations.StepKeepsTheInvariant := by
  intro s t h hs
  obtain ⟨_, rfl⟩ | ⟨rest, _, rfl⟩ | ⟨p, rest, _, _, rfl⟩ | ⟨p, rest, c, cs, u, _, _, hu, rfl⟩ := step_cases hs
  · exact h
  · exact State.WF.of_applyReset h.cfg
  · exact h.spendTurn rest
  · exact (((h.spendTurn rest).accept p cs).perform hu).deliver p

/-- R41 for one step. -/
theorem step_cfg {s t : State} (hs : step s = .next t) : t.cfg = s.cfg := by
  obtain ⟨_, rfl⟩ | ⟨rest, _, rfl⟩ | ⟨p, rest, _, _, rfl⟩ | ⟨p, rest, c, cs, u, _, _, hu, rfl⟩ := step_cases hs
  · rfl
  · rfl
  · rfl
  · obtain ⟨_, hc, _⟩ := perform_interface hu
    simp [hc]

/-- Settles O60: by induction on the number of steps. -/
theorem configurationNeverChanges : Obligations.ConfigurationNeverChanges := by
  intro n
  induction n with
  | zero => intro s t h; cases h; rfl
  | succ n ih =>
    intro s t h
    obtain ⟨u, hs, hr⟩ := run_next h
    exact (ih u t hr).trans (step_cfg hs)

/-- Settles O57: the state after reset is what `applyReset` makes of itself. -/
theorem resetMeetsTheInvariant : Obligations.ResetMeetsTheInvariant :=
  have hreset (c : Config) (h : c.Legal) : (State.resetWith c).WF := State.WF.of_applyReset (s := State.resetWith c) h
  ⟨hreset, hreset Config.atReset (by decide)⟩

/-- Settles O56: the values are written in `State.resetWith`; `Buf` and `sync_state` follow from a count of 0. -/
theorem stateAfterReset : Obligations.StateAfterReset := fun _ =>
  ⟨rfl, rfl, rfl, rfl, rfl, rfl, rfl, rfl, rfl⟩

end Sys2Proof.Machine
end

section
/-! SUPPORT. The refinement of R27: the machine over `(mem, rd, count)` does to its abstract view what the machine over
`Buf` does, so its responses are a function of that view. -/

namespace Sys2Proof.Machine

/-! The reserved operands of R37 and R38. -/

theorem counterId_cases (id : BitVec 3) : id = 0#3 ∨ id = 1#3 ∨ id = 2#3 ∨ id = 3#3 ∨ 4 ≤ id.toNat := by
  revert id; decide

theorem selector_cases (sel : BitVec 2) : sel = 0#2 ∨ sel = 1#2 ∨ sel = 2#2 ∨ sel = 3#2 := by
  revert sel; decide

theorem State.counter_of_reserved (s : State) {id : BitVec 3} (h : 4 ≤ id.toNat) : s.counter id = none := by
  unfold State.counter
  split <;> first | omega | rfl

theorem Abstract.statsRead_of_reserved (a : Abstract) {id : BitVec 3} (h : 4 ≤ id.toNat) :
    a.statsRead id = answer .illegal 0#32 := by
  unfold Abstract.statsRead
  split <;> first | omega | rfl

/-! One operation. -/

/-- `|Buf| = count` under the invariant (R27). -/
theorem State.WF.buf_length {s : State} (h : s.WF) : s.buf.length = s.count := s.buf_length h.unread

theorem execStatsRead_abs (id : BitVec 3) (s : State) :
    execStatsRead id s = .next { s with response := some (s.abs.statsRead id) } := by
  obtain rfl | rfl | rfl | rfl | h := counterId_cases id
  · rfl
  · rfl
  · rfl
  · rfl
  · rw [Abstract.statsRead_of_reserved s.abs h, execStatsRead, State.counter_of_reserved s h]; rfl

theorem State.WF.execStatusRead_abs {s : State} (h : s.WF) (sel : BitVec 2) :
    execStatusRead sel s = .next { s with response := some (s.abs.statusRead sel) } := by
  have hlen : s.abs.buf.length = s.count := h.buf_length
  obtain rfl | rfl | rfl | rfl := selector_cases sel
  · simp [execStatusRead, State.status, Abstract.statusRead, hlen, State.respond, answer]
  · rfl
  · by_cases hn : 4 ≤ s.count <;>
      simp [execStatusRead, State.status, Abstract.statusRead, hlen, State.respond, answer, State.syncState,
        SyncState.toWord, hn]
  · rfl

theorem Abstract.poll_of_few {a : Abstract} (h : a.buf.length < 4) : a.poll = (a, answer .empty 0#32) := by
  obtain ⟨_, hp⟩ | ⟨b0, b1, b2, b3, rest, hb, _⟩ | ⟨b0, b1, b2, b3, rest, hb, _⟩ := a.poll_cases
  · exact hp
  · simp only [hb, List.length_cons] at h; omega
  · simp only [hb, List.length_cons] at h; omega

theorem Abstract.poll_of_window {a : Abstract} {b0 b1 b2 b3 : Byte} {rest : List Byte}
    (h : a.buf = b0 :: b1 :: b2 :: b3 :: rest) :
    a.poll = if b3 = crc8 b0 b1 b2 then
        ({ a with buf := rest, rxPackets := inc a.cfg a.rxPackets }, answer .packet (pack b0 b1 b2 b3))
      else ({ a with buf := b1 :: b2 :: b3 :: rest, checksumFailures := inc a.cfg a.checksumFailures,
                     resyncEvents := inc a.cfg a.resyncEvents }, answer .slip (zextByte b0)) := by
  simp [Abstract.poll, h]

/-- POLL removes from `Buf` what it takes from the ring: the window is `Buf[0..3]` (R27, R134). -/
theorem State.WF.execPoll_abs {s t : State} (h : s.WF) (he : execPoll s = .next t) :
    t.abs = s.abs.poll.1 ∧ t.response = some s.abs.poll.2 := by
  rcases Nat.lt_or_ge s.count 4 with hn | hn
  · rw [execPoll_of_few hn] at he
    rw [Abstract.poll_of_few (a := s.abs) (h.buf_length.trans_lt hn)]
    cases he
    exact ⟨rfl, rfl⟩
  · obtain ⟨b0, b1, b2, b3, hw, hb⟩ := s.window_eq h.unread hn
    have hvalid := validWord_pack b0 b1 b2 b3
    rw [Abstract.poll_of_window (a := s.abs) hb]
    by_cases hv : b3 = crc8 b0 b1 b2
    · rw [execPoll_of_valid hn hw (hvalid.trans ((valid_iff ..).mpr hv))] at he
      rw [if_pos hv]
      cases he
      exact ⟨rfl, rfl⟩
    · rw [execPoll_of_invalid hn hw (by simpa [hvalid, valid] using hv)] at he
      rw [if_neg hv]
      cases he
      have hbuf : (s.advance 1).buf = b1 :: b2 :: b3 :: (s.advance 4).buf := by
        rw [State.buf_advance s 1 h.unread, hb]; rfl
      constructor
      · rw [← hbuf]; rfl
      · simp [State.raise, answer]

/-- INGEST appends to `Buf`, behind the drop of its head when the ring is full (R27, R131, R132). -/
theorem State.WF.execIngest_abs {s t : State} (h : s.WF) {b : Byte} (he : execIngest b s = .next t) :
    t.abs = (s.abs.ingest b).1 ∧ t.response = some (s.abs.ingest b).2 := by
  obtain ⟨hroom, hlt⟩ := h.makeRoom
  have hbuf := State.buf_append s.makeRoom b hroom.unread hlt
  have hlen : s.abs.buf.length = s.count := h.buf_length
  rw [execIngest_next] at he
  cases hf : s.full
  · have hne : s.abs.buf.length ≠ s.abs.cfg.cap := hlen.trans_ne ((State.full_eq_false_iff s).mp hf)
    rw [State.makeRoom_of_not_full s hf] at he hbuf
    rw [Abstract.ingest_of_not_full b s.abs hne]
    simp only [hf] at he
    cases he
    constructor
    · show _ = { s.abs with buf := s.buf ++ [b] }
      rw [← hbuf]; rfl
    · rfl
  · rw [State.makeRoom_of_full s hf] at he hbuf
    rw [Abstract.ingest_of_full b s.abs (hlen.trans ((State.full_iff s).mp hf))]
    simp only [hf] at he
    cases he
    rw [State.buf_advance s 1 h.unread, List.drop_one] at hbuf
    constructor
    · show _ = { s.abs with buf := s.buf.tail ++ [b], overflowEvents := inc s.cfg s.overflowEvents }
      rw [← hbuf]; rfl
    · rfl

theorem execValidate_abs (b0 b1 b2 b3 : Byte) (s : State) :
    execValidate b0 b1 b2 b3 s
      = .next { s with response := some (Abstract.exec (.validate b0 b1 b2 b3) s.abs).2 } := by
  by_cases hv : b3 = crc8 b0 b1 b2
  · simp [execValidate, Abstract.exec, valid, hv, State.respond, answer]
  · simp [execValidate, Abstract.exec, valid, hv, State.raise, State.respond, answer]

/-- Every operation, with every operand: it completes, keeps the invariant, and does to the view what R27 says. -/
theorem State.WF.exec_refines {s : State} (h : s.WF) (i : Instr) :
    ∃ t, exec i s = .next t ∧ t.WF ∧ t.abs = (Abstract.exec i s.abs).1 ∧
      t.response = some (Abstract.exec i s.abs).2 := by
  obtain ⟨t, ht⟩ := h.exec_completes i
  refine ⟨t, ht, h.effect (exec_effect ht), ?_⟩
  cases i with
  | nop => cases ht; exact ⟨rfl, rfl⟩
  | ingest b => exact h.execIngest_abs ht
  | poll => exact h.execPoll_abs ht
  | encode t d0 d1 => cases ht; exact ⟨rfl, rfl⟩
  | validate b0 b1 b2 b3 => cases (execValidate_abs b0 b1 b2 b3 s).symm.trans ht; exact ⟨rfl, rfl⟩
  | statsRead id => cases (execStatsRead_abs id s).symm.trans ht; exact ⟨rfl, rfl⟩
  | statsClear => cases ht; exact ⟨rfl, rfl⟩
  | statusRead sel => cases (h.execStatusRead_abs sel).symm.trans ht; exact ⟨rfl, rfl⟩

/-- Settles O34: `State.WF.exec_refines`, which asks nothing of the operands. -/
theorem storedBufferRefinesAbstractBuffer : Obligations.StoredBufferRefinesAbstractBuffer :=
  fun i _ h _ => h.exec_refines i

/-! Commands, and sequences of them. -/

/-- One command over the abstract view (R27, R92). -/
def Abstract.perform (c : Command) (a : Abstract) : Abstract × Response :=
  match decode c with
  | .instr i => a.exec i
  | .illegal _ => (a, answer .illegal 0#32)

/-- The responses to a sequence of commands over the abstract view. -/
def Abstract.responses : List Command → Abstract → List Response
  | [], _ => []
  | c :: cs, a => (a.perform c).2 :: Abstract.responses cs (a.perform c).1

theorem State.WF.perform_refines {s : State} (h : s.WF) (c : Command) :
    ∃ t, Machine.perform c s = .next t ∧ t.WF ∧ t.abs = (s.abs.perform c).1 ∧
      t.response = some (s.abs.perform c).2 := by
  unfold Abstract.perform
  cases hd : decode c with
  | instr i => rw [perform_instr hd]; exact h.exec_refines i
  | illegal r => exact ⟨_, perform_illegal hd s, h.raise _, rfl, rfl⟩

/-- The responses are those of the machine over `Buf`. -/
theorem State.WF.responsesOf_eq {s : State} (h : s.WF) (cs : List Command) :
    responsesOf cs s = s.abs.responses cs := by
  induction cs generalizing s with
  | nil => rfl
  | cons c cs ih =>
    obtain ⟨t, hp, ht, habs, hresp⟩ := h.perform_refines c
    simp only [responsesOf, hp, hresp, ih ht, habs, Abstract.responses, Option.toList_some, List.singleton_append]

/-- Settles O35: both sequences of responses are the one of the common view. -/
theorem sameBufSameResponses : Obligations.SameBufSameResponses := by
  intro s t cs hs ht habs
  rw [hs.responsesOf_eq, ht.responsesOf_eq, habs]

end Sys2Proof.Machine
end

section
/-! SUPPORT. What the state shows of itself: `sync_state` (R28, R29) and the counters (R37). -/

namespace Sys2Proof.Machine

theorem State.syncState_aligned_iff (s : State) : s.syncState = .aligned ↔ 4 ≤ s.count := by
  simp [State.syncState]

theorem State.syncState_seeking_iff (s : State) : s.syncState = .seeking ↔ s.count < 4 := by
  simp [State.syncState]

/-- Settles O40: `sync_state` has two values and `count >= 4` picks one. -/
theorem alignedOutputFollowsCount : Obligations.AlignedOutputFollowsCount := fun s =>
  ⟨s.syncState_aligned_iff, s.syncState_seeking_iff, decide_eq_true_iff, rfl, rfl⟩

/-- The decoder on a STATS_READ with its reserved bits `x` and its id apart (R91). -/
theorem decode_statsRead_append (x : BitVec 29) (id : BitVec 3) :
    decode (0x5#4 ++ (x ++ id)) = if x = 0#29 then
      (if counterIdOk id then .instr (.statsRead id) else .illegal .reservedCounterId) else .illegal .reservedBits := by
  have hx : BitVec.extractLsb' 3 29 (x ++ id) = x := BitVec.extractLsb'_append_eq_left
  have hid : BitVec.extractLsb' 0 3 (x ++ id) = id := BitVec.extractLsb'_append_eq_right
  have hd := decode_statsRead (x ++ id)
  rwa [hx, hid] at hd

/-- A counter within CNT_W bits is within 32 (R6, R10). -/
theorem toNat_ofNat_of_le_cntMax {c : Config} (h : c.Legal) {v : Nat} (hv : v ≤ c.cntMax) :
    (BitVec.ofNat 32 v).toNat = v := by
  obtain ⟨_, _, _, hw⟩ := h
  have hv : v ≤ 2 ^ c.cntW - 1 := hv
  have hpow : 2 ^ c.cntW ≤ 2 ^ 32 := Nat.pow_le_pow_right (by decide) hw
  have hpos : 0 < 2 ^ c.cntW := Nat.two_pow_pos _
  rw [BitVec.toNat_ofNat, Nat.mod_eq_of_lt]
  omega

/-- Settles O37: the four ids by evaluation, the reserved encodings by the decoder's lemma, the width by the bound of R6. -/
theorem statsReadAnswersTheCounter : Obligations.StatsReadAnswersTheCounter := by
  refine fun s => ⟨rfl, rfl, rfl, rfl, fun id hid => ?_, fun id hid => ?_, fun x id hx => ?_, fun h => ?_⟩
  · have hd := decode_statsRead_append 0#29 id
    rw [if_pos rfl, if_pos (by simpa [counterIdOk] using hid)] at hd
    exact perform_instr hd s
  · have hd := decode_statsRead_append 0#29 id
    rw [if_pos rfl, if_neg (by simpa [counterIdOk] using hid)] at hd
    exact perform_illegal hd s
  · have hd := decode_statsRead_append x id
    rw [if_neg hx] at hd
    exact perform_illegal hd s
  · exact ⟨toNat_ofNat_of_le_cntMax h.cfg h.rxPackets, toNat_ofNat_of_le_cntMax h.cfg h.checksumFailures,
      toNat_ofNat_of_le_cntMax h.cfg h.resyncEvents, toNat_ofNat_of_le_cntMax h.cfg h.overflowEvents⟩

end Sys2Proof.Machine
end

section
/-! SUPPORT. Commands at the ports and one after the other (20_memory.md): the order and the responses of each port over
a run (R61), a turn without a command (log entry 3), and what performing an operation twice comes to (R57). -/

namespace Sys2Proof.Machine

/-! What a port is given while others move (R61, R71). -/

/-- Port state `v` is `u` after its oldest commands `performed` have been performed, each with one response in `given`. -/
def PortState.Served (u v : PortState) : Prop :=
  ∃ (performed : List Command) (given : List Response),
    performed.length = given.length ∧ u.commands = performed ++ v.commands ∧ v.answered = u.answered ++ given

theorem PortState.Served.refl (u : PortState) : u.Served u := ⟨[], [], rfl, rfl, (List.append_nil _).symm⟩

theorem PortState.Served.trans {u v w : PortState} (huv : u.Served v) (hvw : v.Served w) : u.Served w := by
  obtain ⟨d, g, hlen, hcmd, hans⟩ := huv
  obtain ⟨d', g', hlen', hcmd', hans'⟩ := hvw
  exact ⟨d ++ d', g ++ g', by simp [hlen, hlen'], by simp [hcmd, hcmd'], by simp [hans, hans']⟩

/-- A command that is performed leaves every port to its turn. -/
theorem perform_port {c : Command} {s t : State} (h : perform c s = .next t) (q : Port) : t.port q = s.port q := by
  obtain ⟨_, _, hingress, hconsumer, hcontrol, _⟩ := perform_interface h
  cases q with
  | ingress => exact hingress
  | consumer => exact hconsumer
  | control => exact hcontrol

/-- One step serves each port: the port that presents a command loses it and gets one response, the others stay. -/
theorem step_served {s t : State} (h : step s = .next t) (q : Port) : (s.port q).Served (t.port q) := by
  obtain ⟨_, rfl⟩ | ⟨rest, _, rfl⟩ | ⟨p, rest, _, _, rfl⟩ | ⟨p, rest, c, cs, u, _, hc, hu, rfl⟩ := step_cases h
  · exact .refl _
  · rw [State.port_applyReset, State.port_spendTurn]
    exact .refl _
  · rw [State.port_spendTurn]
    exact .refl _
  · have hport := perform_port hu q
    by_cases hq : q = p
    · subst hq
      obtain ⟨r, hr⟩ := Option.isSome_iff_exists.mp (perform_interface hu).1
      exact ⟨[c], [r], rfl, by simp [hport, hc], by simp [hport, hr]⟩
    · rw [State.port_deliver_of_ne p q u hq, hport, State.port_accept_of_ne p q cs _ hq, State.port_spendTurn]
      exact .refl _

theorem run_served {n : Nat} {s t : State} (h : Host.Core.run core n s = .next t) (q : Port) :
    (s.port q).Served (t.port q) := by
  induction n generalizing s with
  | zero => cases h; exact .refl _
  | succ n ih =>
    obtain ⟨u, hs, hr⟩ := run_next h
    exact (step_served hs q).trans (ih hr)

/-- Settles O52: a run serves each port, and `k` counts the commands performed. -/
theorem eachPortKeepsItsOrder : Obligations.EachPortKeepsItsOrder := by
  intro n s t p h
  obtain ⟨performed, given, hlen, hcmd, hans⟩ := run_served h p
  exact ⟨performed.length, given, hlen.symm, by simp [hcmd], hans, by simp [hcmd]⟩

/-! A turn without a command (log entry 3). -/

theorem step_of_no_turn {s : State} (ht : s.turns = []) : step s = .next s := by
  simp only [step, ht]

theorem servePort_of_quiet {p : Port} {s : State} (hc : (s.port p).commands = []) : servePort p s = .next s := by
  simp only [servePort, hc]

theorem step_of_quiet_port {s : State} {p : Port} {rest : List Agent} (ht : s.turns = .port p :: rest)
    (hc : (s.port p).commands = []) : step s = .next (s.spendTurn rest) := by
  simp only [step, ht]
  exact servePort_of_quiet (by rw [State.port_spendTurn, hc])

/-- Settles O50: the two cases of a step that presents nothing. -/
theorem stepWithNothingPresented : Obligations.StepWithNothingPresented :=
  ⟨fun _ => step_of_no_turn, fun _ _ _ => step_of_quiet_port⟩

/-! An operation performed twice (R57). -/

/-- No operation reads the response before it (R71, log entry 5). -/
theorem exec_of_response (i : Instr) (s : State) (r : Option Response) :
    exec i { s with response := r } = exec i s := by
  cases i with
  | ingest b =>
    cases hf : s.full
    · have hf' : State.full { s with response := r } = false := hf
      simp only [exec, execIngest_next, hf, hf', State.makeRoom_of_not_full]
      rfl
    · have hf' : State.full { s with response := r } = true := hf
      simp only [exec, execIngest_next, hf, hf', State.makeRoom_of_full]
      rfl
  | _ => rfl

/-- INGEST into a buffer with room appends its byte and leaves the invariant and the capacity (R131, R27). -/
theorem State.WF.ingest_of_room {s t : State} {b : Byte} (h : s.WF) (hn : s.count < s.cfg.cap)
    (he : exec (.ingest b) s = .next t) :
    t.WF ∧ t.cfg = s.cfg ∧ t.count = s.count + 1 ∧ t.buf = s.buf ++ [b] := by
  have hf : s.full = false := (State.full_eq_false_iff s).mpr hn.ne
  obtain rfl : (s.append b).respond .accepted 0#32 = t := by
    simpa [exec, execIngest_next, hf, State.makeRoom_of_not_full s hf] using he
  exact ⟨(h.append b hn).respond _ _, rfl, rfl, State.buf_append s b h.unread hn⟩

/-- Settles O45: a reading operation changes the response alone, which no operation reads; each INGEST finds room. -/
theorem readsAreIdempotent : Obligations.ReadsAreIdempotent := by
  refine ⟨fun i s t hp hc hi h => ?_, fun b s t u hwf hroom ht hu => ?_⟩
  · obtain ⟨r, _, hread⟩ := exec_of_reads hp hi hc s
    obtain rfl : { s with response := some r } = t := by simpa using (hread s.mem).symm.trans h
    exact ⟨(exec_of_response i s (some r)).trans h, rfl, rfl⟩
  · obtain ⟨hwft, hcfg, hcount, hbuft⟩ := hwf.ingest_of_room (by omega) ht
    obtain ⟨_, _, _, hbufu⟩ := hwft.ingest_of_room (by rw [hcfg]; omega) hu
    simp [hbufu, hbuft]

end Sys2Proof.Machine
end

section
/-! SUPPORT. The encoding of commands (30_encoding.md): the decoder read from the side of the operation, the field of an
encoded command being what R91 puts there, and from the side of the command, whose reserved bits make it ILLEGAL. -/

namespace Sys2Proof

/-! From an operation to its command and back (R70, R72, R91). -/

/-- The layout of the command of every operation. -/
theorem Instr.layout (i : Instr) : Laws.Layout.Statement i := by
  cases i with
  | nop => exact Laws.Layout.nop
  | ingest b => exact Laws.Layout.ingest b
  | poll => exact Laws.Layout.poll
  | encode t d0 d1 => exact Laws.Layout.encode t d0 d1
  | validate b0 b1 b2 b3 => exact Laws.Layout.validate b0 b1 b2 b3
  | statsRead id => exact Laws.Layout.statsRead id
  | statsClear => exact Laws.Layout.statsClear
  | statusRead sel => exact Laws.Layout.statusRead sel

/-- The fields of R91 are where the encoder puts them. -/
theorem operation_opcode_argument (i : Instr) : operation i.opcode i.argument = some i := by
  cases i with
  | nop => rfl
  | ingest b =>
    have hb : BitVec.extractLsb' 0 8 (0#24 ++ b) = b := BitVec.extractLsb'_append_eq_right
    exact congrArg (some ∘ Instr.ingest) hb
  | poll => rfl
  | encode t d0 d1 =>
    obtain ⟨h0, h1, h2, _⟩ := word_bytes t d0 d1 0#8
    simp [operation, Instr.opcode, Instr.argument, h0, h1, h2]
  | validate b0 b1 b2 b3 =>
    obtain ⟨h0, h1, h2, h3⟩ := word_bytes b0 b1 b2 b3
    simp [operation, Instr.opcode, Instr.argument, h0, h1, h2, h3]
  | statsRead id =>
    have hid : BitVec.extractLsb' 0 3 (0#29 ++ id) = id := BitVec.extractLsb'_append_eq_right
    exact congrArg (some ∘ Instr.statsRead) hid
  | statsClear => rfl
  | statusRead sel =>
    have hsel : BitVec.extractLsb' 0 2 (0#30 ++ sel) = sel := BitVec.extractLsb'_append_eq_right
    exact congrArg (some ∘ Instr.statusRead) hsel

theorem checkOperand_of_wellFormed {i : Instr} (h : i.wellFormed = true) : checkOperand i = .instr i := by
  cases i with
  | statsRead id => exact if_pos h
  | statusRead sel => exact if_pos h
  | _ => rfl

/-- Settles O1: the layout gives the decoder the operation's own code and argument, no reserved bit set. -/
theorem decodeAfterEncode : Obligations.DecodeAfterEncode := by
  intro i hi
  obtain ⟨hop, harg, hres⟩ := i.layout
  have hmask : i.argument &&& resMask i.opcode = 0 := hres
  simp only [decode, hop, harg, operation_opcode_argument, hmask, if_true, checkOperand_of_wellFormed hi]

/-- Settles O5: each command written out is the encoding of its operation. -/
theorem operandsStandWhereR91Says : Obligations.OperandsStandWhereR91Says :=
  ⟨decodeAfterEncode .nop rfl,
   fun b => decodeAfterEncode (.ingest b) rfl,
   decodeAfterEncode .poll rfl,
   fun t d0 d1 => decodeAfterEncode (.encode t d0 d1) rfl,
   fun b0 b1 b2 b3 => decodeAfterEncode (.validate b0 b1 b2 b3) rfl,
   fun id hid => decodeAfterEncode (.statsRead id) (decide_eq_true hid),
   decodeAfterEncode .statsClear rfl,
   fun sel hsel => decodeAfterEncode (.statusRead sel) (decide_eq_true hsel)⟩

/-- Settles O6: six of the words are encodings; the others set op 0x9 and bit 8 of an INGEST. -/
theorem writtenCommandsDecode : Obligations.WrittenCommandsDecode :=
  ⟨decodeAfterEncode (.ingest 0x6B#8) rfl,
   decodeAfterEncode .poll rfl,
   decodeAfterEncode (.encode 0xE0#8 0x12#8 0x34#8) rfl,
   decodeAfterEncode (.validate 0x20#8 0xF0#8 0x00#8 0x8E#8) rfl,
   decodeAfterEncode (.statsRead 3#3) rfl,
   decodeAfterEncode (.statusRead 2#2) rfl,
   decode_reservedOp 0x9#4 0xFFFFFFFF#32 (by decide),
   decode_ingest 0x100#32⟩

/-! From a command to its operation (R74, R92). -/

theorem instr_of_ite_eq {p : Prop} [Decidable p] {d : Decoded} {r : IllegalReason} {i : Instr}
    (h : (if p then d else .illegal r) = .instr i) : p ∧ d = .instr i := by
  by_cases hp : p
  · exact ⟨hp, (if_pos hp).symm.trans h⟩
  · exact nomatch (if_neg hp).symm.trans h

/-- A word with zeros above its lower `m` bits is those bits, zero-extended. -/
theorem zero_append_of_upper_eq_zero {n m : Nat} {a : BitVec (n + m)} (h : a.extractLsb' m n = 0#n) :
    0#n ++ a.extractLsb' 0 m = a := by
  rw [← h]
  exact (word_split n m a).symm

/-- A decoded operation is the one of the command's code and argument. -/
theorem decode_append_instr {o : Nibble} {a : Word} {i : Instr} (h : decode (o ++ a) = .instr i) :
    i.wellFormed = true ∧ i.opcode = o ∧ i.argument = a := by
  obtain rfl | rfl | rfl | rfl | rfl | rfl | rfl | rfl | ho := op_cases o
  · rw [decode_nop] at h
    obtain ⟨rfl, hi⟩ := instr_of_ite_eq h
    cases hi
    exact ⟨rfl, rfl, rfl⟩
  · rw [decode_ingest] at h
    obtain ⟨hres, hi⟩ := instr_of_ite_eq h
    cases hi
    exact ⟨rfl, rfl, zero_append_of_upper_eq_zero hres⟩
  · rw [decode_poll] at h
    obtain ⟨rfl, hi⟩ := instr_of_ite_eq h
    cases hi
    exact ⟨rfl, rfl, rfl⟩
  · rw [decode_encode] at h
    obtain ⟨hres, hi⟩ := instr_of_ite_eq h
    cases hi
    exact ⟨rfl, rfl, (congrArg _ hres.symm).trans (word_of_bytes a)⟩
  · rw [decode_validate] at h
    cases h
    exact ⟨rfl, rfl, word_of_bytes a⟩
  · rw [decode_statsRead] at h
    obtain ⟨hres, h⟩ := instr_of_ite_eq h
    obtain ⟨hid, hi⟩ := instr_of_ite_eq h
    cases hi
    exact ⟨hid, rfl, zero_append_of_upper_eq_zero hres⟩
  · rw [decode_statsClear] at h
    obtain ⟨rfl, hi⟩ := instr_of_ite_eq h
    cases hi
    exact ⟨rfl, rfl, rfl⟩
  · rw [decode_statusRead] at h
    obtain ⟨hres, h⟩ := instr_of_ite_eq h
    obtain ⟨hsel, hi⟩ := instr_of_ite_eq h
    cases hi
    exact ⟨hsel, rfl, zero_append_of_upper_eq_zero hres⟩
  · rw [decode_reservedOp o a ho] at h
    exact nomatch h

/-- Settles O2: the command is its code above its argument, and both are the operation's. -/
theorem encodeAfterDecode : Obligations.EncodeAfterDecode := by
  intro c i h
  rw [c.split] at h ⊢
  obtain ⟨hwf, hop, harg⟩ := decode_append_instr h
  exact ⟨hwf, by rw [encode, hop, harg]⟩

/-! ILLEGAL commands (R73, R74). -/

@[simp] theorem not_exists_instr_eq_illegal (i : Instr) : ¬ ∃ r, Decoded.instr i = .illegal r := by
  rintro ⟨r, h⟩
  cases h

@[simp] theorem exists_ite_eq_illegal_iff {p : Prop} [Decidable p] {d : Decoded} {r : IllegalReason} :
    (∃ r', (if p then d else .illegal r) = .illegal r') ↔ ¬ p ∨ ∃ r', d = .illegal r' := by
  by_cases hp : p <;> simp [hp]

/-- A field of the argument is a field of the command (R70). -/
theorem Command.extractLsb'_arg (c : Command) {start len : Nat} (h : start + len ≤ 32) :
    c.arg.extractLsb' start len = c.extractLsb' start len :=
  BitVec.extractLsb'_extractLsb'_of_le h

/-- The decoder on a command whose op field is known. -/
theorem decode_of_op {c : Command} {o : Nibble} (h : c.extractLsb' 32 4 = o) : decode c = decode (o ++ c.arg) := by
  rw [← h]
  exact congrArg decode c.split

theorem selectorOk_iff (sel : BitVec 2) : selectorOk sel = true ↔ sel ≠ 3#2 := by
  revert sel; decide

/-- Settles O3: the nine cases of the op field, each with the conditions of its equation of the decoder. -/
theorem illegalExactlyWhenReserved : Obligations.IllegalExactlyWhenReserved := by
  intro c
  have harg : c.arg = c.extractLsb' 0 32 := rfl
  obtain h | h | h | h | h | h | h | h | h := op_cases (c.extractLsb' 32 4)
  · simp [decode_of_op h, decode_nop, h, harg]
  · simp [decode_of_op h, decode_ingest, h, c.extractLsb'_arg]
  · simp [decode_of_op h, decode_poll, h, harg]
  · simp [decode_of_op h, decode_encode, h, c.extractLsb'_arg]
  · simp [decode_of_op h, decode_validate, h]
  · simp [decode_of_op h, decode_statsRead, h, c.extractLsb'_arg, counterIdOk]
  · simp [decode_of_op h, decode_statsClear, h, harg]
  · rw [decode_of_op h, decode_statusRead, exists_ite_eq_illegal_iff, exists_ite_eq_illegal_iff, selectorOk_iff]
    simp [h, c.extractLsb'_arg]
  · exact ⟨fun _ => .inl h, fun _ => ⟨_, (decode_of_op rfl).trans (decode_reservedOp _ _ h)⟩⟩

/-- A reserved argument bit makes a command ILLEGAL whatever its op is (R74). -/
theorem exists_illegal_of_reservedBits {c : Command} (h : c.arg &&& resMask c.op ≠ 0) :
    ∃ r, decode c = .illegal r := by
  unfold decode
  cases operation c.op c.arg with
  | none => exact ⟨_, rfl⟩
  | some i => exact ⟨_, if_neg h⟩

end Sys2Proof
end

section
/-! SUPPORT. Responses and packet words as bits (30_encoding.md R71, R75, R77, R79, R80). -/

namespace Sys2Proof.Machine

theorem ResponseCode.bits_lt (c : ResponseCode) : c.bits.toNat < 8 := by
  cases c <;> decide

/-- Settles O7: the word is the code appended to the data. -/
theorem responseWordLayout : Obligations.ResponseWordLayout :=
  ⟨fun _ => ⟨BitVec.extractLsb'_append_eq_left, BitVec.extractLsb'_append_eq_right⟩, ResponseCode.bits_lt, rfl⟩

/-- A field of a field is a field of the whole. -/
theorem extractLsb'_extractLsb' {w : Nat} (x : BitVec w) (start len start' len' : Nat) (h : start' + len' ≤ len) :
    (x.extractLsb' start len).extractLsb' start' len' = x.extractLsb' (start + start') len' := by
  refine BitVec.eq_of_getLsbD_eq fun i hi => ?_
  simp [hi, show start' + i < len by omega, Nat.add_assoc]

/-- The decoded view over the bytes: type and flags split byte 0 (R77). -/
theorem packetOfWord_eq (w : Word) :
    packetOfWord w = { type := (byte0 w).extractLsb' 5 3, flags := (byte0 w).extractLsb' 0 5, data0 := byte1 w,
                       data1 := byte2 w, checksum := byte3 w } := by
  have htype : (byte0 w).extractLsb' 5 3 = w.extractLsb' 29 3 := extractLsb'_extractLsb' w 24 8 5 3 (by decide)
  have hflags : (byte0 w).extractLsb' 0 5 = w.extractLsb' 24 5 := extractLsb'_extractLsb' w 24 8 0 5 (by decide)
  rw [htype, hflags]
  rfl

theorem packetOfWord_pack (b0 b1 b2 b3 : Byte) :
    packetOfWord (pack b0 b1 b2 b3) =
      { type := b0.extractLsb' 5 3, flags := b0.extractLsb' 0 5, data0 := b1, data1 := b2, checksum := b3 } := by
  simp [packetOfWord_eq]

theorem unpack_pack (b0 b1 b2 b3 : Byte) : unpack (pack b0 b1 b2 b3) = [b0, b1, b2, b3] := by
  simp [unpack]

theorem MessageType.code_messageType (c : BitVec 3) : (messageType c).code = c := by
  revert c; decide

theorem messageType_code (t : MessageType) : messageType t.code = t := by
  cases t <;> decide

/-- Settles O8: the fields of a word by definition, those of a packed word by `word_bytes`, the types one by one. -/
theorem packetWordFields : Obligations.PacketWordFields :=
  ⟨fun _ => ⟨rfl, rfl⟩, fun b0 b1 b2 b3 => ⟨rfl, unpack_pack b0 b1 b2 b3, packetOfWord_pack b0 b1 b2 b3⟩,
   pack_bytes, MessageType.code_messageType, messageType_code, rfl⟩

end Sys2Proof.Machine
end

section
/-! SUPPORT. What commands do that the encoding rules speak of: an ILLEGAL command (R74, R175), the response of a port's
turn (R71), and the pseudo-instructions INGESTS and INGESTPKT (R94, R95). -/

namespace Sys2Proof.Machine

/-! An ILLEGAL command (R74, R175). -/

/-- The kinds of reserved command, with the reserved bits as the mask of R92. -/
theorem exists_illegal_of_reserved {c : Command}
    (h : 8 ≤ (c.extractLsb' 32 4).toNat
      ∨ ((c.extractLsb' 32 4).toNat < 8 ∧ c.extractLsb' 0 32 &&& resMask (c.extractLsb' 32 4) ≠ 0#32)
      ∨ (c.extractLsb' 32 4 = 0x5#4 ∧ 4 ≤ (c.extractLsb' 0 3).toNat)
      ∨ (c.extractLsb' 32 4 = 0x7#4 ∧ c.extractLsb' 0 2 = 3#2)) : ∃ r, decode c = .illegal r := by
  obtain hop | ⟨_, hbits⟩ | ⟨hop, hid⟩ | ⟨hop, hsel⟩ := h
  · exact (illegalExactlyWhenReserved c).mpr (.inl hop)
  · exact exists_illegal_of_reservedBits hbits
  · exact (illegalExactlyWhenReserved c).mpr (by simp only [hop, hid, true_and, or_true, true_or])
  · exact (illegalExactlyWhenReserved c).mpr (by simp only [hop, hsel, true_and, or_true])

/-- No command reads the response before it (R71, log entry 5). -/
theorem perform_of_response (c : Command) (s : State) (r : Option Response) :
    perform c { s with response := r } = perform c s := by
  cases hd : decode c with
  | instr i => rw [perform_instr hd, perform_instr hd, exec_of_response]
  | illegal reason => rw [perform_illegal hd, perform_illegal hd]; rfl

/-- Settles O46: a reserved command raises IllegalCommand, whose one trace is the response. -/
theorem illegalCommandChangesNothing : Obligations.IllegalCommandChangesNothing := by
  intro c s h
  obtain ⟨_, hd⟩ := exists_illegal_of_reserved h
  exact ⟨perform_illegal hd s, fun d => perform_of_response d s _⟩

/-! The response of a port's turn (R71). -/

/-- A port's turn that answers a next state has performed the port's command. -/
theorem step_port_next {s t : State} {p : Port} {rest : List Agent} {c : Command} {cs : List Command}
    (ht : s.turns = .port p :: rest) (hc : (s.port p).commands = c :: cs) (hs : step s = .next t) :
    ∃ u, perform c ((s.spendTurn rest).accept p cs) = .next u ∧ t = u.deliver p := by
  rw [step_port ht hc] at hs
  cases hp : perform c ((s.spendTurn rest).accept p cs) with
  | next u => rw [hp] at hs; cases hs; exact ⟨u, rfl, rfl⟩
  | fault r => rw [hp] at hs; cases hs
  | refused r => rw [hp] at hs; cases hs

/-- Settles O51: the command leaves ports and turns as they were and writes one response, which `deliver` adds. -/
theorem oneResponsePerCommand : Obligations.OneResponsePerCommand := by
  intro s t p rest c cs ht hc hs
  obtain ⟨u, hu, rfl⟩ := step_port_next ht hc hs
  obtain ⟨hresp, _, _, _, _, hturns⟩ := perform_interface hu
  obtain ⟨r, hr⟩ := Option.isSome_iff_exists.mp hresp
  refine ⟨⟨r, ?_, by simp [hr]⟩, fun q hq => ?_, by simp [hturns]⟩
  · simp [perform_port hu p, hr]
  · rw [State.port_deliver_of_ne p q u hq, perform_port hu q, State.port_accept_of_ne p q cs _ hq,
      State.port_spendTurn]

@[simp] theorem State.port_respond (p : Port) (code : ResponseCode) (data : Word) (s : State) :
    (s.respond code data).port p = s.port p := by
  cases p <;> rfl

/-! The abstract view has no part in responses, ports and turns. -/

@[simp] theorem State.abs_respond (code : ResponseCode) (data : Word) (s : State) :
    (s.respond code data).abs = s.abs := rfl
@[simp] theorem State.abs_spendTurn (rest : List Agent) (s : State) : (s.spendTurn rest).abs = s.abs := rfl
@[simp] theorem State.abs_accept (p : Port) (rest : List Command) (s : State) : (s.accept p rest).abs = s.abs := by
  cases p <;> rfl
@[simp] theorem State.abs_deliver (p : Port) (s : State) : (s.deliver p).abs = s.abs := by
  cases p <;> rfl

/-- Settles O49: the turn raises IllegalCommand on the block and delivers its response. -/
theorem stepAnswersIllegalCommand : Obligations.StepAnswersIllegalCommand := by
  intro s p rest c cs r ht hc hd
  refine ⟨_, by rw [step_port ht hc, perform_illegal hd, mapNext_next], ?_⟩
  simp [State.raise]

/-! INGESTS and INGESTPKT (R94, R95). -/

theorem perform_encode {i : Instr} (h : i.wellFormed = true) (s : State) : perform (encode i) s = exec i s :=
  perform_instr (decodeAfterEncode i h) s

theorem performAll_of_next {c : Command} {cs : List Command} {s t : State} (h : perform c s = .next t) :
    performAll (c :: cs) s = performAll cs t := by
  simp only [performAll, h]

theorem responsesOf_of_next {c : Command} {cs : List Command} {s t : State} {r : Response}
    (h : perform c s = .next t) (hr : t.response = some r) : responsesOf (c :: cs) s = r :: responsesOf cs t := by
  simp only [responsesOf, h, hr, Option.toList_some, List.singleton_append]

theorem map_encode_ingests_cons (b : Byte) (bs : List Byte) :
    (ingests (b :: bs)).map encode = encode (.ingest b) :: (ingests bs).map encode := rfl

/-- INGEST completes in every state and answers ACCEPTED (R133). -/
theorem exec_ingest_accepted (b : Byte) (s : State) :
    ∃ t d, exec (.ingest b) s = .next t ∧ t.response = some ⟨.accepted, d⟩ := by
  cases hf : s.full
  · exact ⟨_, 0#32, by rw [exec, execIngest_next, hf], rfl⟩
  · exact ⟨_, 1#32, by rw [exec, execIngest_next, hf], rfl⟩

theorem countCode_cons (code : ResponseCode) (r : Response) (rs : List Response) :
    countCode code (r :: rs) = countCode code rs + if r.code = code then 1 else 0 := by
  simp [countCode, List.countP_cons]

/-- Settles O29, by induction on the bytes: each INGEST is accepted on the state that the one before it left. -/
theorem everyIngestIsAccepted : Obligations.EveryIngestIsAccepted := by
  intro s bs
  induction bs generalizing s with
  | nil => exact ⟨⟨s, rfl⟩, rfl, rfl⟩
  | cons b bs ih =>
    obtain ⟨t, d, ht, hr⟩ := exec_ingest_accepted b s
    have hp : perform (encode (.ingest b)) s = .next t := (perform_encode rfl s).trans ht
    obtain ⟨hrun, hlen, hcount⟩ := ih t
    rw [map_encode_ingests_cons, performAll_of_next hp, responsesOf_of_next hp hr]
    exact ⟨hrun, by rw [List.length_cons, hlen, List.length_cons],
      by rw [countCode_cons, if_pos rfl, hcount, List.length_cons]⟩

/-- INGESTs that find room put their bytes at the end of `Buf` (R94, R27). -/
theorem State.WF.performAll_ingests_of_room {s : State} (h : s.WF) (bs : List Byte)
    (hn : s.count + bs.length ≤ s.cfg.cap) :
    ∃ t, performAll ((ingests bs).map encode) s = .next t ∧ t.WF ∧ t.buf = s.buf ++ bs := by
  induction bs generalizing s with
  | nil => exact ⟨s, rfl, h, by simp⟩
  | cons b bs ih =>
    rw [List.length_cons] at hn
    obtain ⟨t, ht⟩ := h.exec_completes (.ingest b)
    obtain ⟨hwf, hcfg, hcount, hbuf⟩ := h.ingest_of_room (by omega) ht
    obtain ⟨u, hu, hwfu, hbufu⟩ := ih hwf (by rw [hcfg]; omega)
    have hp : Machine.perform (encode (.ingest b)) s = .next t := (perform_encode rfl s).trans ht
    exact ⟨u, (performAll_of_next hp).trans hu, hwfu, by simp [hbufu, hbuf]⟩

/-- Settles O30: the four bytes are the whole of `Buf`, and POLL over it finds them valid. -/
theorem ingestPktIsEmittedByPoll : Obligations.IngestPktIsEmittedByPoll := by
  intro s t d0 d1 h hn
  have hcap := h.cfg.1
  have hempty : s.buf = [] := List.length_eq_zero_iff.mp (h.buf_length.trans hn)
  obtain ⟨u, hu, hwf, hbuf⟩ := h.performAll_ingests_of_room [t, d0, d1, crc8 t d0 d1] (by simpa [hn] using hcap)
  have hwindow : u.abs.buf = [t, d0, d1, crc8 t d0 d1] := by rwa [hempty, List.nil_append] at hbuf
  obtain ⟨v, hv, hwfv, habs, hresp⟩ := hwf.exec_refines .poll
  rw [Abstract.exec, Abstract.poll_of_window hwindow, if_pos rfl] at habs hresp
  refine ⟨u, v, hu, hv, hresp, ?_⟩
  rw [← hwfv.buf_length]
  exact congrArg (List.length ∘ Abstract.buf) habs

end Sys2Proof.Machine
end

section
/-! SUPPORT. The checksum over byte sequences (40_codec.md): the loop is linear (R111), one byte of it is a look-up in the
printed table (R111), and its value over the four bytes of a word is the residue of R112, which is 0 on the valid packets
(R113). -/

namespace Sys2Proof.Machine

/-! The loop is linear (R111). -/

theorem crcFrom_zipWith_xor {as bs : List Byte} (h : as.length = bs.length) (c d : Byte) :
    crcFrom (c ^^^ d) (List.zipWith (· ^^^ ·) as bs) = crcFrom c as ^^^ crcFrom d bs := by
  induction as generalizing bs c d with
  | nil =>
    obtain rfl := List.length_eq_zero_iff.mp h.symm
    rfl
  | cons a as ih =>
    cases bs with
    | nil => cases h
    | cons b bs => exact (congrArg (crcFrom · _) (crcByte_xor c d a b)).trans (ih (Nat.succ.inj h) _ _)

theorem crcSeq_zipWith_xor {as bs : List Byte} (h : as.length = bs.length) :
    crcSeq (List.zipWith (· ^^^ ·) as bs) = crcSeq as ^^^ crcSeq bs :=
  crcFrom_zipWith_xor h 0#8 0#8

theorem crc8_xor (a0 a1 a2 b0 b1 b2 : Byte) :
    crc8 (a0 ^^^ b0) (a1 ^^^ b1) (a2 ^^^ b2) = crc8 a0 a1 a2 ^^^ crc8 b0 b1 b2 :=
  crcSeq_zipWith_xor (as := [a0, a1, a2]) (bs := [b0, b1, b2]) rfl

/-! The table (R111). -/

/-- The 256 printed entries are the values of eight iterations. -/
theorem crcTable_getElem? (x : Byte) : crcTable[x.toNat]? = some (crcShifts 8 x).toNat := by
  revert x; decide +kernel

theorem crcSeq_singleton (b : Byte) : crcSeq [b] = crcShifts 8 b :=
  congrArg (crcShifts 8) BitVec.zero_xor

/-- Settles O9: linearity of the loop, and the table for one byte of it, whose accumulator enters by XOR. -/
theorem crcLinearAndTableDriven : Obligations.CrcLinearAndTableDriven :=
  ⟨crc8_xor, by decide +kernel, by decide +kernel, fun c b => crcTable_getElem? (c ^^^ b),
   fun i => by rw [crcTable_getElem?, crcSeq_singleton]⟩

/-! The residue (R112, R113). -/

/-- One iteration loses nothing: the bit that is shifted out comes back as bit 0 of 0x07. -/
theorem crcShift_eq_zero_iff (c : Byte) : crcShift c = 0#8 ↔ c = 0#8 := by
  refine ⟨fun h => ?_, by rintro rfl; rfl⟩
  unfold crcShift at h
  split at h
  · have h0 := congrArg (·.getLsbD 0) h
    simp at h0
  · rename_i hmsb
    have hlt : c.toNat < 128 := by simpa [BitVec.msb_eq_decide] using hmsb
    bv_omega

theorem crcShifts_eq_zero_iff (n : Nat) (c : Byte) : crcShifts n c = 0#8 ↔ c = 0#8 := by
  induction n generalizing c with
  | zero => rfl
  | succ n ih => exact (ih _).trans (crcShift_eq_zero_iff c)

/-- A byte takes the accumulator to 0 when it equals it. -/
theorem crcByte_eq_zero_iff (c b : Byte) : crcByte c b = 0#8 ↔ b = c := by
  rw [crcByte, crcShifts_eq_zero_iff, BitVec.xor_eq_zero_iff, eq_comm]

theorem crcSeq_eq_zero_iff (b0 b1 b2 b3 : Byte) : crcSeq [b0, b1, b2, b3] = 0#8 ↔ b3 = crc8 b0 b1 b2 :=
  crcByte_eq_zero_iff (crc8 b0 b1 b2) b3

/-- Settles O10: the fourth byte meets the accumulator that is the crc8 of the first three. -/
theorem crcResidueIsZero : Obligations.CrcResidueIsZero := fun b0 b1 b2 =>
  ⟨(crcSeq_eq_zero_iff b0 b1 b2 _).mpr rfl, crcSeq_eq_zero_iff b0 b1 b2, valid_iff b0 b1 b2,
   crc8 b0 b1 b2, (valid_iff b0 b1 b2 _).mpr rfl, fun x => (valid_iff b0 b1 b2 x).mp⟩

/-! The valid words are a linear code: closed under XOR, and no word of a single bit is one of them. -/

theorem validWord_iff (w : Word) : validWord w = true ↔ crcSeq (unpack w) = 0#8 :=
  (valid_iff _ _ _ _).trans (crcSeq_eq_zero_iff _ _ _ _).symm

theorem unpack_xor (v w : Word) : unpack (v ^^^ w) = List.zipWith (· ^^^ ·) (unpack v) (unpack w) := by
  simp [unpack, byte0, byte1, byte2, byte3, BitVec.extractLsb'_xor]

theorem crcSeq_unpack_xor (v w : Word) :
    crcSeq (unpack (v ^^^ w)) = crcSeq (unpack v) ^^^ crcSeq (unpack w) :=
  (congrArg crcSeq (unpack_xor v w)).trans (crcSeq_zipWith_xor rfl)

theorem validWord_xor_of_valid {w : Word} (hw : validWord w = true) (e : Word) :
    validWord (w ^^^ e) = validWord e := by
  have hres : crcSeq (unpack w) = 0#8 := (validWord_iff w).mp hw
  rw [Bool.eq_iff_iff, validWord_iff, validWord_iff, crcSeq_unpack_xor, hres, BitVec.zero_xor]

/-- The 32 words of one bit, one by one. -/
theorem validWord_single_bit {k : Nat} (h : k < 32) : validWord (1#32 <<< k) = false := by
  revert k; decide +kernel

/-- Settles O11: XORed onto a valid word, the single bit alone decides, and alone it is invalid. -/
theorem everySingleBitFlipIsCaught : Obligations.EverySingleBitFlipIsCaught := fun _ _ hk hw =>
  (validWord_xor_of_valid hw _).trans (validWord_single_bit hk)

/-- Settles O12: the loop on the four inputs. -/
theorem sourceVectorsByTheAlgorithm : Obligations.SourceVectorsByTheAlgorithm := by
  unfold Obligations.SourceVectorsByTheAlgorithm
  decide +kernel

end Sys2Proof.Machine
end

section
/-! SUPPORT. The codec operations (40_codec.md): ENCODE (R114) and VALIDATE (R115) write their response and nothing else. -/

namespace Sys2Proof.Machine

theorem exec_encode (t d0 d1 : Byte) (s : State) :
    exec (.encode t d0 d1) s = .next (s.respond .packet (pack t d0 d1 (crc8 t d0 d1))) := rfl

theorem exec_validate_of_eq {b0 b1 b2 b3 : Byte} (h : b3 = crc8 b0 b1 b2) (s : State) :
    exec (.validate b0 b1 b2 b3) s = .next (s.respond .packet (pack b0 b1 b2 b3)) := by
  simp [exec, execValidate, (valid_iff b0 b1 b2 b3).mpr h]

theorem exec_validate_of_ne {b0 b1 b2 b3 : Byte} (h : b3 ≠ crc8 b0 b1 b2) (s : State) :
    exec (.validate b0 b1 b2 b3) s = .next (s.respond .checksumError (pack b0 b1 b2 (crc8 b0 b1 b2))) := by
  simp [exec, execValidate, mt (valid_iff b0 b1 b2 b3).mp h, State.raise]

/-- An ENCODE with a reserved argument bit set is ILLEGAL (R74, R91). -/
theorem decode_encode_reservedBits (t d0 d1 : Byte) {x : Byte} (hx : x ≠ 0#8) :
    decode (0x3#4 ++ (t ++ d0 ++ d1 ++ x)) = .illegal .reservedBits := by
  obtain ⟨_, _, _, h3⟩ := word_bytes t d0 d1 x
  rw [decode_encode, h3, if_neg hx]

/-- Settles O13: ENCODE has one outcome, and a checksum byte that is not zero sets reserved bits. -/
theorem encodeAnswersThePacket : Obligations.EncodeAnswersThePacket := fun t d0 d1 s =>
  ⟨exec_encode t d0 d1 s, perform_encode (i := .encode t d0 d1) rfl s,
   fun _ hx => perform_illegal (decode_encode_reservedBits t d0 d1 hx) s⟩

/-- Settles O14: the two outcomes of the checksum test; the command written out is the encoding of VALIDATE. -/
theorem validateChecksThePacket : Obligations.ValidateChecksThePacket := fun b0 b1 b2 b3 s =>
  ⟨fun h => exec_validate_of_eq h s, fun h => exec_validate_of_ne h s,
   perform_encode (i := .validate b0 b1 b2 b3) rfl s⟩

/-- Settles O15: the answered word is the packed one, whose bytes are the operands and their checksum. -/
theorem validateAcceptsWhatEncodeMade : Obligations.ValidateAcceptsWhatEncodeMade := by
  intro t d0 d1 s u w hu hw
  cases (exec_encode t d0 d1 s).symm.trans hu
  cases hw
  rw [byte0_pack, byte1_pack, byte2_pack, byte3_pack]
  exact ⟨exec_validate_of_eq rfl _, rfl, rfl, rfl⟩

/-- An operation of the codec has one response, the same in every state (R116). -/
theorem exec_codec_response {i : Instr}
    (h : (∃ t d0 d1, i = .encode t d0 d1) ∨ ∃ b0 b1 b2 b3, i = .validate b0 b1 b2 b3) :
    ∃ r : Response, ∀ s : State, exec i s = .next { s with response := some r } := by
  obtain ⟨t, d0, d1, rfl⟩ | ⟨b0, b1, b2, b3, rfl⟩ := h
  · exact ⟨_, exec_encode t d0 d1⟩
  · by_cases hv : b3 = crc8 b0 b1 b2
    · exact ⟨_, exec_validate_of_eq hv⟩
    · exact ⟨_, exec_validate_of_ne hv⟩

/-- Settles O16: the state changes in the response only, which no operation reads. -/
theorem codecIsPure : Obligations.CodecIsPure := by
  intro i hi
  obtain ⟨r, hr⟩ := exec_codec_response hi
  refine ⟨r, fun s => ⟨hr s, fun j t ht => ?_⟩⟩
  obtain rfl : { s with response := some r } = t := by simpa using (hr s).symm.trans ht
  exact exec_of_response j s (some r)

end Sys2Proof.Machine
end

section
/-! SUPPORT. INGEST and POLL on the stored state (41_synchronizer.md): the next state of each outcome (R131, R134), what
it leaves alone, and what it does to `sync_state` (R139) and to the two counters of a slip (R142). -/

namespace Sys2Proof.Machine

/-! INGEST (R131). -/

theorem exec_ingest_of_not_full {s : State} (h : s.count ≠ s.cfg.cap) (b : Byte) :
    exec (.ingest b) s = .next ((s.append b).respond .accepted 0#32) := by
  have hf := (State.full_eq_false_iff s).mpr h
  rw [exec, execIngest_next, hf, State.makeRoom_of_not_full s hf]
  rfl

theorem exec_ingest_of_full {s : State} (h : s.count = s.cfg.cap) (b : Byte) :
    exec (.ingest b) s = .next (((s.advance 1).append b).raise .bufferOverflow) := by
  have hf := (State.full_iff s).mpr h
  rw [exec, execIngest_next, hf, State.makeRoom_of_full s hf]
  rfl

/-- An INGEST with a reserved argument bit set is ILLEGAL (R74, R91). -/
theorem decode_ingest_reservedBits (b : Byte) {x : BitVec 24} (hx : x ≠ 0#24) :
    decode (0x1#4 ++ (x ++ b)) = .illegal .reservedBits := by
  have hbits : BitVec.extractLsb' 8 24 (x ++ b) = x := BitVec.extractLsb'_append_eq_left
  rw [decode_ingest, hbits, if_neg hx]

/-- Settles O17: the next states of the two cases, written out; the command written out is the encoding of INGEST. -/
theorem ingestStoresTheByte : Obligations.IngestStoresTheByte := fun b s =>
  ⟨fun h => exec_ingest_of_not_full h b, fun h => exec_ingest_of_full h b, fun t _ => t.syncState_aligned_iff,
   perform_encode (i := .ingest b) rfl s, fun _ hx => perform_illegal (decode_ingest_reservedBits b hx) s⟩

/-- Settles O18: the one write is at the cursor that `makeRoom` leaves, and the effects of INGEST name what else moves. -/
theorem ingestFrame : Obligations.IngestFrame := by
  intro b s t h
  have hmem : t.mem = Memory.write s.mem s.makeRoom.wr b := onlyIngestAndPollTouchMem.2.1 b s t h
  refine ⟨by simp [hmem], fun a ha => by rw [hmem, Memory.read_write_other _ _ _ _ ha], ?_⟩
  cases execIngest_effect h with
  | ingestDrop _ hf => simp [State.raise, (State.full_iff s).mp hf]
  | ingestRoom _ hf => simp [State.makeRoom_of_not_full s hf]
  | read _ r hp hi hc hr => exact absurd rfl (hi b)

/-! POLL (R134). -/

/-- Settles O20: EMPTY is the outcome of too few bytes, which is what SEEKING means. -/
theorem pollWithTooFewBytesIsEmpty : Obligations.PollWithTooFewBytesIsEmpty := fun s hn =>
  ⟨execPoll_of_few hn, s.syncState_seeking_iff.mpr hn⟩

/-- An unread byte is a byte of `mem` (R26, R39). -/
theorem State.WF.exists_read {s : State} (h : s.WF) {k : Nat} (hk : k < s.count) :
    ∃ b, Memory.read s.mem ((s.rd + k) % s.cfg.cap) = some b :=
  Option.isSome_iff_exists.mp (h.unread k hk)

/-- The window is packed from the four bytes at the cursor (R134, R54). -/
theorem State.window_of_bytes {s : State} {b0 b1 b2 b3 : Byte} (h0 : s.byteAt 0 = some b0) (h1 : s.byteAt 1 = some b1)
    (h2 : s.byteAt 2 = some b2) (h3 : s.byteAt 3 = some b3) : s.window = some (pack b0 b1 b2 b3) := by
  simp only [State.window, h0, h1, h2, h3]

/-- A POLL with an argument is ILLEGAL (R74, R91). -/
theorem decode_poll_reservedBits {x : Word} (hx : x ≠ 0#32) : decode (0x2#4 ++ x) = .illegal .reservedBits := by
  rw [decode_poll, if_neg hx]

/-- Settles O21: the invariant gives the four bytes of the window, whose checksum picks the outcome. -/
theorem pollTestsTheWindow : Obligations.PollTestsTheWindow := by
  intro s h
  refine ⟨fun hn => ?_, fun hn => execPoll_of_few hn, fun t _ => t.syncState_aligned_iff,
    perform_encode (i := .poll) rfl s, fun x hx => perform_illegal (decode_poll_reservedBits hx) s⟩
  obtain ⟨b0, h0⟩ := h.exists_read (k := 0) (by omega)
  obtain ⟨b1, h1⟩ := h.exists_read (k := 1) (by omega)
  obtain ⟨b2, h2⟩ := h.exists_read (k := 2) (by omega)
  obtain ⟨b3, h3⟩ := h.exists_read (k := 3) (by omega)
  have hw : s.window = some (pack b0 b1 b2 b3) := State.window_of_bytes h0 h1 h2 h3
  have hvalid := validWord_pack b0 b1 b2 b3
  have hhead : Memory.read s.mem s.rd = some b0 := by rwa [Nat.add_zero, Nat.mod_eq_of_lt h.rd] at h0
  refine ⟨b0, b1, b2, b3, hhead, h1, h2, h3, fun hv => ?_, fun hv => ?_⟩
  · exact execPoll_of_valid hn hw (hvalid.trans ((valid_iff ..).mpr hv))
  · have hslip := execPoll_of_invalid hn hw (hvalid.trans (decide_eq_false hv))
    rwa [State.raise, byte0_pack] at hslip

/-- Settles O22: whichever effect POLL has, it moves cursors and counts an event of its own. -/
theorem pollFrame : Obligations.PollFrame := by
  intro s t h
  cases execPoll_effect h with
  | pollEmpty hn => simp
  | pollPacket w hn hw hv => simp
  | pollSlip w hn hw hv => simp [State.raise]
  | read _ r hp hi hc hr => exact absurd rfl hp

/-! The boundary detector (R139). -/

theorem State.syncState_congr {s t : State} (h : t.count = s.count) : t.syncState = s.syncState := by
  simp only [State.syncState, h]

/-- INGEST leaves one byte more, up to CAP (R24). -/
theorem State.WF.count_of_ingest {s t : State} (h : s.WF) {b : Byte} (he : exec (.ingest b) s = .next t) :
    t.count = min (s.count + 1) s.cfg.cap := by
  have hcap := h.cap_pos
  rcases h.count.lt_or_eq with hn | hn
  · cases (exec_ingest_of_not_full hn.ne b).symm.trans he
    show s.count + 1 = _
    omega
  · cases (exec_ingest_of_full hn b).symm.trans he
    show s.count - 1 + 1 = _
    omega

/-- The operations other than INGEST and POLL leave `count` (R24). -/
theorem count_of_exec {i : Instr} {s t : State} (hp : i ≠ .poll) (hi : ∀ b, i ≠ .ingest b) (h : exec i s = .next t) :
    t.count = s.count := by
  cases exec_effect h with
  | pollEmpty hn => rfl
  | pollPacket w hn hw hv => exact absurd rfl hp
  | pollSlip w hn hw hv => exact absurd rfl hp
  | ingestDrop b hf => exact absurd rfl (hi b)
  | ingestRoom b hf => exact absurd rfl (hi b)
  | clear => rfl
  | read _ r _ _ hc hr => rfl

/-- Settles O24: `sync_state` is `count >= 4`, and `count` after each operation is known. -/
theorem boundaryDetectorTransitions : Obligations.BoundaryDetectorTransitions := by
  refine ⟨fun b s t h he => ?_, fun s t he => ?_, fun i s t hp hi he => State.syncState_congr (count_of_exec hp hi he),
    fun _ => rfl⟩
  · have hcount := h.count_of_ingest he
    have hcap := h.cfg.1
    simp only [State.syncState_aligned_iff, State.syncState_seeking_iff]
    omega
  · simp only [State.syncState_aligned_iff, State.syncState_seeking_iff]
    cases execPoll_effect he with
    | pollEmpty hn => exact ⟨fun _ => ⟨hn, rfl⟩, fun hge => absurd hn (Nat.not_lt.mpr hge)⟩
    | pollPacket w hn hw hv => exact ⟨fun hlt => absurd hn (Nat.not_le.mpr hlt), fun _ => ⟨_, rfl, .inl ⟨rfl, .rfl⟩⟩⟩
    | pollSlip w hn hw hv => exact ⟨fun hlt => absurd hn (Nat.not_le.mpr hlt), fun _ => ⟨_, rfl, .inr ⟨rfl, .rfl⟩⟩⟩
    | read _ r hp hi hc hr => exact absurd rfl hp

/-! The counters of a slip (R31, R32, R142). -/

/-- A command changes the two counters alike. -/
theorem perform_slip_counters {c : Command} {s t : State} (h : perform c s = .next t)
    (he : s.checksumFailures = s.resyncEvents) : t.checksumFailures = t.resyncEvents := by
  cases hd : decode c with
  | illegal r => rw [perform_illegal hd] at h; cases h; exact he
  | instr i =>
    rw [perform_instr hd] at h
    obtain ⟨r, hr⟩ := Option.isSome_iff_exists.mp (exec_interface h).1
    obtain ⟨_, hfail, hresync, _⟩ := countersChangeOnlyByTheirOwner i s t r h hr
    rw [hfail, hresync, he]

/-- Settles O33: reset zeroes both counters, and a command changes them alike. -/
theorem slipCountersStayEqual : Obligations.SlipCountersStayEqual := by
  intro s t h he
  obtain ⟨_, rfl⟩ | ⟨rest, _, rfl⟩ | ⟨p, rest, _, _, rfl⟩ | ⟨p, rest, c, cs, u, _, _, hu, rfl⟩ := step_cases h
  · exact he
  · rfl
  · exact he
  · rw [State.deliver_checksumFailures, State.deliver_resyncEvents]
    exact perform_slip_counters hu (by simpa using he)

end Sys2Proof.Machine
end

section
/-! SUPPORT. The synchronizer read off `Buf` (41_synchronizer.md): what INGEST and POLL do to it from a state that meets
the invariant, as the machine over `Buf` does it (R27), and what sequences of either come to (R138, R143, R144). -/

namespace Sys2Proof.Machine

/-! Several increments of a counter (R12). -/

theorem incTimes_add (cfg : Config) (m n c : Nat) : incTimes cfg (m + n) c = incTimes cfg n (incTimes cfg m c) := by
  induction n with
  | zero => rfl
  | succ n ih => rw [← Nat.add_assoc, incTimes_succ, incTimes_succ, ih]

/-- As long as the sum is within the maximum, `n` increments add `n`. -/
theorem incTimes_of_le {cfg : Config} {n c : Nat} (h : c + n ≤ cfg.cntMax) : incTimes cfg n c = c + n := by
  induction n with
  | zero => rfl
  | succ n ih => rw [incTimes_succ, ih (by omega), inc_of_lt cfg _ (by omega), Nat.add_assoc]

/-! POLL on `Buf` (R136, R137). -/

/-- With 4 bytes or more `Buf` starts with a window. -/
theorem State.WF.exists_window {s : State} (h : s.WF) (hn : 4 ≤ s.count) :
    ∃ b0 b1 b2 b3 rest, s.buf = b0 :: b1 :: b2 :: b3 :: rest := by
  obtain ⟨b0, b1, b2, b3, _, hb⟩ := s.window_eq h.unread hn
  exact ⟨b0, b1, b2, b3, _, hb⟩

theorem State.WF.exec_poll_packet {s : State} (h : s.WF) {b0 b1 b2 b3 : Byte} {rest : List Byte}
    (hb : s.buf = b0 :: b1 :: b2 :: b3 :: rest) (hv : b3 = crc8 b0 b1 b2) :
    ∃ t, exec .poll s = .next t ∧ t.abs = { s.abs with buf := rest, rxPackets := inc s.cfg s.rxPackets } ∧
      t.response = some (answer .packet (pack b0 b1 b2 b3)) := by
  obtain ⟨t, ht, _, habs, hresp⟩ := h.exec_refines .poll
  rw [Abstract.exec, Abstract.poll_of_window (a := s.abs) hb, if_pos hv] at habs hresp
  exact ⟨t, ht, habs, hresp⟩

theorem State.WF.exec_poll_slip {s : State} (h : s.WF) {b0 b1 b2 b3 : Byte} {rest : List Byte}
    (hb : s.buf = b0 :: b1 :: b2 :: b3 :: rest) (hv : b3 ≠ crc8 b0 b1 b2) :
    ∃ t, exec .poll s = .next t ∧ t.WF ∧
      t.abs = { s.abs with buf := s.buf.tail, checksumFailures := inc s.cfg s.checksumFailures,
                           resyncEvents := inc s.cfg s.resyncEvents } ∧
      t.response = some (answer .slip (zextByte b0)) := by
  obtain ⟨t, ht, hwf, habs, hresp⟩ := h.exec_refines .poll
  rw [Abstract.exec, Abstract.poll_of_window (a := s.abs) hb, if_neg hv] at habs hresp
  exact ⟨t, ht, hwf, by rw [habs, hb]; rfl, hresp⟩

/-- Settles O26, by induction on the garbage: its first byte heads an invalid window and slips, the rest of it follows. -/
theorem recoveryAfterGarbage : Obligations.RecoveryAfterGarbage := by
  intro s g rest b0 b1 b2 b3 h hb hv hg
  induction g generalizing s with
  | nil =>
    obtain ⟨u, hu, habs, hresp⟩ := h.exec_poll_packet hb hv
    exact ⟨s, u, rfl, rfl, hu, hresp, congrArg Abstract.buf habs, congrArg Abstract.resyncEvents habs⟩
  | cons x g ih =>
    have hn : 4 ≤ s.count := by
      rw [← h.buf_length, hb]
      simp only [List.length_append, List.length_cons, List.length_nil]
      omega
    obtain ⟨x0, x1, x2, x3, l, hw⟩ := h.exists_window hn
    obtain rfl : x0 = x := by rw [hb] at hw; exact (List.cons.inj hw).1.symm
    obtain ⟨s', hs', hwf, habs, hresp⟩ := h.exec_poll_slip hw (hg 0 (Nat.succ_pos _) x0 x1 x2 x3 l hw)
    have hp : perform (encode .poll) s = .next s' := (perform_encode rfl s).trans hs'
    have hbuf : s'.buf = s.buf.tail := congrArg Abstract.buf habs
    obtain ⟨t, u, ht, hans, hu, hpacket, hrest, hresync⟩ := ih s' hwf (by rw [hbuf, hb]; rfl) fun j hj => by
      rw [hbuf, ← List.drop_one, List.drop_drop, Nat.add_comm]
      exact hg (j + 1) (Nat.succ_lt_succ hj)
    refine ⟨t, u, (performAll_of_next hp).trans ht, ?_, hu, hpacket, hrest, ?_⟩
    · exact (responsesOf_of_next hp hresp).trans (congrArg _ hans)
    · rw [hresync, show s'.resyncEvents = inc s.cfg s.resyncEvents from congrArg Abstract.resyncEvents habs,
        show s'.cfg = s.cfg from congrArg Abstract.cfg habs]
      rfl

/-- Each slip costs one byte, so with `n + 3` bytes buffered at most `n` POLLs slip before PACKET or EMPTY (R138). -/
theorem State.WF.polls_until_packet_or_empty {s : State} (h : s.WF) (n : Nat) (hn : s.count = n + 3) :
    ∃ k t u, k ≤ n ∧ performAll (List.replicate k (encode .poll)) s = .next t ∧
      countCode .slip (responsesOf (List.replicate k (encode .poll)) s) = k ∧
      exec .poll t = .next u ∧ ∃ r, u.response = some r ∧ (r.code = .packet ∨ r = ⟨.empty, 0#32⟩) := by
  induction n generalizing s with
  | zero =>
    exact ⟨0, s, _, Nat.le_refl 0, rfl, rfl, execPoll_of_few (by omega), _, rfl, .inr rfl⟩
  | succ n ih =>
    obtain ⟨b0, b1, b2, b3, rest, hb⟩ := h.exists_window (by omega)
    by_cases hv : b3 = crc8 b0 b1 b2
    · obtain ⟨u, hu, _, hresp⟩ := h.exec_poll_packet hb hv
      exact ⟨0, s, u, Nat.zero_le _, rfl, rfl, hu, _, hresp, .inl rfl⟩
    · obtain ⟨s', hs', hwf, habs, hresp⟩ := h.exec_poll_slip hb hv
      have hp : Machine.perform (encode .poll) s = .next s' := (perform_encode rfl s).trans hs'
      have hcount : s'.count = n + 3 := by
        rw [← hwf.buf_length, show s'.buf = s.buf.tail from congrArg Abstract.buf habs, List.length_tail,
          h.buf_length]
        omega
      obtain ⟨k, t, u, hk, ht, hslips, hlast⟩ := ih hwf hcount
      refine ⟨k + 1, t, u, Nat.succ_le_succ hk, (performAll_of_next hp).trans ht, ?_, hlast⟩
      rw [List.replicate_succ, responsesOf_of_next hp hresp, countCode_cons, hslips]
      rfl

/-- Settles O25: `State.WF.polls_until_packet_or_empty` for `count - 3` POLLs. -/
theorem pollsUntilPacketOrEmpty : Obligations.PollsUntilPacketOrEmpty := fun _ h hn =>
  h.polls_until_packet_or_empty _ (by omega)

/-- Settles O27: the five bytes start with a window whose checksum is right. -/
theorem falseLockIsEmitted : Obligations.FalseLockIsEmitted := by
  intro s h hb
  obtain ⟨t, ht, habs, hresp⟩ := h.exec_poll_packet hb (by decide +kernel)
  exact ⟨t, ht, hresp.trans (by decide), congrArg Abstract.buf habs, congrArg Abstract.resyncEvents habs, by decide,
    by decide⟩

/-! INGEST on `Buf` (R131, R132). -/

theorem State.WF.exec_ingest_full {s : State} (h : s.WF) (b : Byte) (hn : s.count = s.cfg.cap) :
    ∃ t, exec (.ingest b) s = .next t ∧ t.WF ∧
      t.abs = { s.abs with buf := s.buf.tail ++ [b], overflowEvents := inc s.cfg s.overflowEvents } := by
  obtain ⟨t, ht, hwf, habs, _⟩ := h.exec_refines (.ingest b)
  rw [Abstract.exec, Abstract.ingest_of_full b s.abs (h.buf_length.trans hn)] at habs
  exact ⟨t, ht, hwf, habs⟩

theorem State.WF.exec_ingest_room {s : State} (h : s.WF) (b : Byte) (hn : s.count < s.cfg.cap) :
    ∃ t, exec (.ingest b) s = .next t ∧ t.WF ∧ t.abs = { s.abs with buf := s.buf ++ [b] } := by
  obtain ⟨t, ht, hwf, habs, _⟩ := h.exec_refines (.ingest b)
  rw [Abstract.exec, Abstract.ingest_of_not_full b s.abs (h.buf_length.trans_ne hn.ne)] at habs
  exact ⟨t, ht, hwf, habs⟩

/-- Both cases at once: `Buf` is the last CAP bytes, and an increment counts the byte that falls out. -/
theorem State.WF.exec_ingest_keeps_last {s : State} (h : s.WF) (b : Byte) :
    ∃ t, exec (.ingest b) s = .next t ∧ t.WF ∧ t.cfg = s.cfg ∧
      t.buf = (s.buf ++ [b]).drop (s.count + 1 - s.cfg.cap) ∧
      t.overflowEvents = incTimes s.cfg (s.count + 1 - s.cfg.cap) s.overflowEvents := by
  have hcap := h.cap_pos
  rcases h.count.lt_or_eq with hn | hn
  · obtain ⟨t, ht, hwf, habs⟩ := h.exec_ingest_room b hn
    rw [show s.count + 1 - s.cfg.cap = 0 by omega]
    exact ⟨t, ht, hwf, congrArg Abstract.cfg habs, congrArg Abstract.buf habs, congrArg Abstract.overflowEvents habs⟩
  · obtain ⟨t, ht, hwf, habs⟩ := h.exec_ingest_full b hn
    have hlen : 1 ≤ s.buf.length := by rw [h.buf_length]; omega
    rw [show s.count + 1 - s.cfg.cap = 1 by omega, List.drop_append_of_le_length hlen, List.drop_one]
    exact ⟨t, ht, hwf, congrArg Abstract.cfg habs, congrArg Abstract.buf habs, congrArg Abstract.overflowEvents habs⟩

/-- Settles O19: a full buffer is not empty, and `Buf` says what is dropped and appended. -/
theorem ingestDropsOnlyTheOldest : Obligations.IngestDropsOnlyTheOldest := by
  intro b s h
  have hcap := h.cap_pos
  rcases h.count.lt_or_eq with hn | hn
  · obtain ⟨t, ht, hwf, habs⟩ := h.exec_ingest_room b hn
    have hbuf : t.buf = s.buf ++ [b] := congrArg Abstract.buf habs
    refine ⟨t, ht, fun he => absurd he hn.ne, fun _ => ⟨hbuf, ?_, congrArg Abstract.overflowEvents habs⟩,
      congrArg Abstract.resyncEvents habs, congrArg Abstract.checksumFailures habs⟩
    rw [← hwf.buf_length, hbuf, List.length_append, h.buf_length, List.length_singleton]
  · obtain ⟨t, ht, hwf, habs⟩ := h.exec_ingest_full b hn
    have hbuf : t.buf = s.buf.tail ++ [b] := congrArg Abstract.buf habs
    have hlen := h.buf_length
    refine ⟨t, ht, fun _ => ⟨?_, hbuf, ?_, congrArg Abstract.overflowEvents habs⟩, fun hlt => absurd hn hlt.ne,
      congrArg Abstract.resyncEvents habs, congrArg Abstract.checksumFailures habs⟩
    · exact List.ne_nil_of_length_pos (by omega)
    · rw [← hwf.buf_length, hbuf, List.length_append, List.length_tail, List.length_singleton]
      omega

/-- INGESTs one after the other keep the last CAP bytes, by induction on the bytes (R144). -/
theorem State.WF.performAll_ingests {s : State} (h : s.WF) (bs : List Byte) :
    ∃ t, performAll ((ingests bs).map encode) s = .next t ∧ t.WF ∧ t.cfg = s.cfg ∧
      t.buf = (s.buf ++ bs).drop (s.count + bs.length - s.cfg.cap) ∧
      t.overflowEvents = incTimes s.cfg (s.count + bs.length - s.cfg.cap) s.overflowEvents := by
  induction bs generalizing s with
  | nil =>
    have hroom : s.count + ([] : List Byte).length - s.cfg.cap = 0 := Nat.sub_eq_zero_of_le h.count
    rw [hroom, List.append_nil]
    exact ⟨s, rfl, h, rfl, rfl, rfl⟩
  | cons b bs ih =>
    obtain ⟨t, ht, hwft, hcfgt, hbuft, hovft⟩ := h.exec_ingest_keeps_last b
    obtain ⟨u, hu, hwfu, hcfgu, hbufu, hovfu⟩ := ih hwft
    have hp : Machine.perform (encode (.ingest b)) s = .next t := (perform_encode rfl s).trans ht
    have hlen : (s.buf ++ [b]).length = s.count + 1 := by rw [List.length_append, h.buf_length, List.length_singleton]
    have hcount : t.count = s.count + 1 - (s.count + 1 - s.cfg.cap) := by
      rw [← hwft.buf_length, hbuft, List.length_drop, hlen]
    have hcap := h.cfg.1
    have hdropped : s.count + (b :: bs).length - s.cfg.cap
        = (s.count + 1 - s.cfg.cap) + (t.count + bs.length - s.cfg.cap) := by
      rw [hcount, List.length_cons]
      omega
    refine ⟨u, (performAll_of_next hp).trans hu, hwfu, hcfgu.trans hcfgt, ?_, ?_⟩
    · rw [hbufu, hcfgt, hbuft, hdropped, ← List.drop_append_of_le_length (by rw [hlen]; omega), List.drop_drop,
        List.append_assoc, List.singleton_append]
    · rw [hovfu, hcfgt, hovft, hdropped, incTimes_add]

/-- Settles O28: `count` is the length of the `Buf` that `State.WF.performAll_ingests` gives. -/
theorem overflowKeepsTheLastCapBytes : Obligations.OverflowKeepsTheLastCapBytes := by
  intro s bs h
  obtain ⟨t, ht, hwf, _, hbuf, hovf⟩ := h.performAll_ingests bs
  refine ⟨t, ht, hwf, hbuf, ?_, hovf⟩
  rw [← hwf.buf_length, hbuf, List.length_drop, List.length_append, h.buf_length]
  omega

end Sys2Proof.Machine
end

section
/-! SUPPORT. The flow of bytes through the block (41_synchronizer.md R140, R142), over `Buf`: every byte that was buffered
or ingested has left at the old end, in a packet, by a slip or by a drop, or is still buffered. -/

namespace Sys2Proof.Machine

/-! What a sequence of commands ingests, emits and answers, command by command. -/

theorem ingestedBytes_cons (c : Command) (cs : List Command) :
    ingestedBytes (c :: cs) = ingestedBytes [c] ++ ingestedBytes cs :=
  List.filterMap_append (l := [c])

theorem ingestedBytes_of_ingest {c : Command} {b : Byte} (h : decode c = .instr (.ingest b)) : ingestedBytes [c] = [b] := by
  simp [ingestedBytes, h]

theorem ingestedBytes_of_not_ingest {c : Command} (h : ∀ b, decode c ≠ .instr (.ingest b)) : ingestedBytes [c] = [] := by
  cases hd : decode c with
  | illegal r => simp [ingestedBytes, hd]
  | instr i =>
    cases i with
    | ingest b => exact absurd hd (h b)
    | _ => simp [ingestedBytes, hd]

/-- The packet words that a command emits with its response `r` (R136). -/
def emittedBy (c : Command) (r : Response) : List Word :=
  if decode c = .instr .poll ∧ r.code = .packet then [r.data] else []

theorem emittedBy_of_not_poll {c : Command} (h : decode c ≠ .instr .poll) (r : Response) : emittedBy c r = [] :=
  if_neg fun hc => h hc.1

theorem emittedPackets_of_next {c : Command} {cs : List Command} {s t : State} {r : Response}
    (h : perform c s = .next t) (hr : t.response = some r) :
    emittedPackets (c :: cs) s = emittedBy c r ++ emittedPackets cs t := by
  simp only [emittedPackets, h, emittedBy, hr]
  congr 1
  split
  · rename_i hd hr
    cases hr
    simp [hd]
  · rename_i hne
    rw [if_neg fun hc => hne r hc.1 rfl]

theorem countCode_singleton (code : ResponseCode) (r : Response) :
    countCode code [r] = if r.code = code then 1 else 0 :=
  (countCode_cons code r []).trans (Nat.zero_add _)

theorem countDrops_cons (r : Response) (rs : List Response) : countDrops (r :: rs) = countDrops [r] + countDrops rs :=
  List.countP_append (l₁ := [r])

theorem countDrops_eq_zero {r : Response} (h : r ≠ answer .accepted 1#32) : countDrops [r] = 0 := by
  simp [countDrops, h]

theorem countDrops_drop : countDrops [answer .accepted 1#32] = 1 := by decide

/-! Where the bytes went, and what the counters counted. -/

/-- Between the views `a` and `a'` the bytes `ins` came in at one end of `Buf`, and at the other left the packets `ws`,
`slips` single bytes and `drops` single bytes, each packet as four bytes that stand together. -/
def Flow (a a' : Abstract) (ins : List Byte) (ws : List Word) (slips drops : Nat) : Prop :=
  ∃ out : List Byte, a.buf ++ ins = out ++ a'.buf ∧ (∀ w ∈ ws, unpack w <:+: out) ∧
    out.length = 4 * ws.length + slips + drops

/-- Between the views `a` and `a'` each counter was incremented once per event that it counts (R30 to R33). -/
structure Counted (a a' : Abstract) (packets slips drops : Nat) : Prop where
  cfg : a'.cfg = a.cfg
  rxPackets : a'.rxPackets = incTimes a.cfg packets a.rxPackets
  resyncEvents : a'.resyncEvents = incTimes a.cfg slips a.resyncEvents
  checksumFailures : a'.checksumFailures = incTimes a.cfg slips a.checksumFailures
  overflowEvents : a'.overflowEvents = incTimes a.cfg drops a.overflowEvents

theorem Flow.refl {a a' : Abstract} (h : a'.buf = a.buf) : Flow a a' [] [] 0 0 :=
  ⟨[], by simp [h], by simp, rfl⟩

theorem Flow.trans {a a' a'' : Abstract} {ins ins' : List Byte} {ws ws' : List Word} {slips slips' drops drops' : Nat}
    (h : Flow a a' ins ws slips drops) (h' : Flow a' a'' ins' ws' slips' drops') :
    Flow a a'' (ins ++ ins') (ws ++ ws') (slips + slips') (drops + drops') := by
  obtain ⟨out, hstream, hws, hlen⟩ := h
  obtain ⟨out', hstream', hws', hlen'⟩ := h'
  refine ⟨out ++ out', ?_, fun w hw => ?_, ?_⟩
  · rw [← List.append_assoc, hstream, List.append_assoc, hstream', List.append_assoc]
  · rcases List.mem_append.mp hw with hw | hw
    · exact (hws w hw).trans (List.prefix_append _ _).isInfix
    · exact (hws' w hw).trans (List.suffix_append _ _).isInfix
  · rw [List.length_append, hlen, hlen', List.length_append]
    omega

theorem Counted.refl (a : Abstract) : Counted a a 0 0 0 := ⟨rfl, rfl, rfl, rfl, rfl⟩

theorem Counted.trans {a a' a'' : Abstract} {packets packets' slips slips' drops drops' : Nat}
    (h : Counted a a' packets slips drops) (h' : Counted a' a'' packets' slips' drops') :
    Counted a a'' (packets + packets') (slips + slips') (drops + drops') where
  cfg := h'.cfg.trans h.cfg
  rxPackets := by rw [h'.rxPackets, h.rxPackets, h.cfg, incTimes_add]
  resyncEvents := by rw [h'.resyncEvents, h.resyncEvents, h.cfg, incTimes_add]
  checksumFailures := by rw [h'.checksumFailures, h.checksumFailures, h.cfg, incTimes_add]
  overflowEvents := by rw [h'.overflowEvents, h.overflowEvents, h.cfg, incTimes_add]

/-! One operation. -/

/-- INGEST takes in its byte, and drops one with a buffer that is full (R131, R132). -/
theorem Abstract.ingest_flow {a : Abstract} (hcap : 0 < a.cfg.cap) (b : Byte) :
    ∃ drops, countCode .slip [(a.ingest b).2] = 0 ∧ countDrops [(a.ingest b).2] = drops ∧
      Flow a (a.ingest b).1 [b] [] 0 drops ∧ Counted a (a.ingest b).1 0 0 drops := by
  by_cases hfull : a.buf.length = a.cfg.cap
  · obtain ⟨x, rest, hbuf⟩ := List.exists_cons_of_length_pos (hfull ▸ hcap)
    rw [Abstract.ingest_of_full b a hfull]
    exact ⟨1, rfl, countDrops_drop, ⟨[x], by simp [hbuf], by simp, rfl⟩, ⟨rfl, rfl, rfl, rfl, rfl⟩⟩
  · rw [Abstract.ingest_of_not_full b a hfull]
    exact ⟨0, rfl, countDrops_eq_zero (by simp [answer]), ⟨[], by simp, by simp, rfl⟩, ⟨rfl, rfl, rfl, rfl, rfl⟩⟩

/-- POLL takes four bytes away as a packet, or one by a slip, or none (R135, R136, R137). -/
theorem Abstract.poll_flow (a : Abstract) :
    ∃ ws slips, (if a.poll.2.code = .packet then [a.poll.2.data] else []) = ws ∧
      countCode .slip [a.poll.2] = slips ∧ countDrops [a.poll.2] = 0 ∧
      Flow a a.poll.1 [] ws slips 0 ∧ Counted a a.poll.1 ws.length slips 0 := by
  obtain ⟨_, he⟩ | ⟨b0, b1, b2, b3, rest, hb, _, he⟩ | ⟨b0, b1, b2, b3, rest, hb, _, he⟩ := a.poll_cases <;> rw [he]
  · exact ⟨[], 0, rfl, rfl, countDrops_eq_zero (by simp [answer]), .refl rfl, .refl a⟩
  · refine ⟨[pack b0 b1 b2 b3], 0, rfl, rfl, countDrops_eq_zero (by simp [answer]),
      ⟨[b0, b1, b2, b3], by simp [hb], ?_, rfl⟩, ⟨rfl, rfl, rfl, rfl, rfl⟩⟩
    simp [unpack_pack]
  · exact ⟨[], 1, rfl, rfl, countDrops_eq_zero (by simp [answer]), ⟨[b0], by simp [hb], by simp, rfl⟩,
      ⟨rfl, rfl, rfl, rfl, rfl⟩⟩

/-- The other operations leave `Buf`, and all but STATS_CLEAR the counters; none answers SLIP or ACCEPTED. -/
theorem Abstract.exec_quiet {i : Instr} (hp : i ≠ .poll) (hi : ∀ b, i ≠ .ingest b) (a : Abstract) :
    (a.exec i).1.buf = a.buf ∧ (i ≠ .statsClear → (a.exec i).1 = a) ∧
      (a.exec i).2.code ≠ .slip ∧ (a.exec i).2.code ≠ .accepted := by
  cases i with
  | nop => simp [Abstract.exec, answer]
  | ingest b => exact absurd rfl (hi b)
  | poll => exact absurd rfl hp
  | encode t d0 d1 => simp [Abstract.exec, answer]
  | validate b0 b1 b2 b3 => by_cases hv : b3 = crc8 b0 b1 b2 <;> simp [Abstract.exec, answer, hv]
  | statsRead id =>
    refine ⟨rfl, fun _ => rfl, ?_⟩
    simp only [Abstract.exec, Abstract.statsRead]
    split <;> simp [answer]
  | statsClear => simp [Abstract.exec, answer]
  | statusRead sel =>
    obtain rfl | rfl | rfl | rfl := selector_cases sel <;> simp [Abstract.exec, Abstract.statusRead, answer]

theorem Abstract.perform_instr {c : Command} {i : Instr} (h : decode c = .instr i) (a : Abstract) :
    a.perform c = a.exec i := by
  simp [Abstract.perform, h]

theorem Abstract.perform_quiet {c : Command} (hp : decode c ≠ .instr .poll) (hi : ∀ b, decode c ≠ .instr (.ingest b))
    (a : Abstract) :
    (a.perform c).1.buf = a.buf ∧ (decode c ≠ .instr .statsClear → (a.perform c).1 = a) ∧
      (a.perform c).2.code ≠ .slip ∧ (a.perform c).2.code ≠ .accepted := by
  cases hd : decode c with
  | illegal r => simp [Abstract.perform, hd, answer]
  | instr i =>
    rw [Abstract.perform_instr hd]
    obtain ⟨hbuf, hsame, hcode⟩ := Abstract.exec_quiet (fun h => hp (h ▸ hd)) (fun b h => hi b (h ▸ hd)) a
    exact ⟨hbuf, fun hc => hsame fun h => hc (h ▸ rfl), hcode⟩

/-! One command, and sequences of them. -/

/-- The flow of one command, in the terms that a sequence is counted in. -/
theorem Abstract.perform_flow {a : Abstract} (hcap : 0 < a.cfg.cap) (c : Command) :
    Flow a (a.perform c).1 (ingestedBytes [c]) (emittedBy c (a.perform c).2) (countCode .slip [(a.perform c).2])
      (countDrops [(a.perform c).2]) ∧
    (decode c ≠ .instr .statsClear → Counted a (a.perform c).1 (emittedBy c (a.perform c).2).length
      (countCode .slip [(a.perform c).2]) (countDrops [(a.perform c).2])) := by
  by_cases hp : decode c = .instr .poll
  · obtain ⟨ws, slips, hws, hslips, hdrops, hflow, hcounted⟩ := a.poll_flow
    rw [Abstract.perform_instr hp, Abstract.exec, ingestedBytes_of_not_ingest (by simp [hp]), hslips, hdrops,
      show emittedBy c a.poll.2 = ws by simpa [emittedBy, hp] using hws]
    exact ⟨hflow, fun _ => hcounted⟩
  by_cases hi : ∃ b, decode c = .instr (.ingest b)
  · obtain ⟨b, hi⟩ := hi
    obtain ⟨drops, hslips, hdrops, hflow, hcounted⟩ := Abstract.ingest_flow hcap b
    rw [Abstract.perform_instr hi, Abstract.exec, ingestedBytes_of_ingest hi, hslips, hdrops, emittedBy_of_not_poll hp]
    exact ⟨hflow, fun _ => hcounted⟩
  · have hi : ∀ b, decode c ≠ .instr (.ingest b) := fun b hb => hi ⟨b, hb⟩
    obtain ⟨hbuf, hsame, hslip, hacc⟩ := Abstract.perform_quiet hp hi a
    rw [ingestedBytes_of_not_ingest hi, emittedBy_of_not_poll hp, countCode_singleton, if_neg hslip,
      countDrops_eq_zero fun h => hacc (congrArg Response.code h)]
    exact ⟨.refl hbuf, fun hc => by rw [hsame hc]; exact .refl a⟩

/-- The flow of a sequence of commands, by induction over it. -/
theorem State.WF.performAll_flow {s : State} (h : s.WF) (cs : List Command) :
    ∃ t, performAll cs s = .next t ∧ t.WF ∧
      Flow s.abs t.abs (ingestedBytes cs) (emittedPackets cs s) (countCode .slip (responsesOf cs s))
        (countDrops (responsesOf cs s)) ∧
      ((∀ x ∈ cs, decode x ≠ .instr .statsClear) → Counted s.abs t.abs (emittedPackets cs s).length
        (countCode .slip (responsesOf cs s)) (countDrops (responsesOf cs s))) := by
  induction cs generalizing s with
  | nil => exact ⟨s, rfl, h, .refl rfl, fun _ => .refl s.abs⟩
  | cons c cs ih =>
    obtain ⟨t, hp, hwft, habs, hresp⟩ := h.perform_refines c
    obtain ⟨hflow, hcounted⟩ := Abstract.perform_flow (a := s.abs) h.cap_pos c
    obtain ⟨u, hu, hwfu, hflow', hcounted'⟩ := ih hwft
    rw [habs] at hflow' hcounted'
    rw [performAll_of_next hp, ingestedBytes_cons, emittedPackets_of_next hp hresp, responsesOf_of_next hp hresp,
      countCode_cons, ← countCode_singleton, Nat.add_comm (countCode _ _), countDrops_cons, List.length_append]
    refine ⟨u, hu, hwfu, hflow.trans hflow', fun hc => ?_⟩
    rw [List.forall_mem_cons] at hc
    exact (hcounted hc.1).trans (hcounted' hc.2)

/-- Settles O31: what is left of the stream is its end, and each packet lies in what left before. -/
theorem packetsAreConsecutiveIngestedBytes : Obligations.PacketsAreConsecutiveIngestedBytes := by
  intro s cs h
  obtain ⟨t, ht, _, ⟨out, hstream, hpackets, _⟩, _⟩ := h.performAll_flow cs
  have hstream : s.buf ++ ingestedBytes cs = out ++ t.buf := hstream
  refine ⟨t, ht, ⟨out, hstream.symm⟩, fun w hw => ?_⟩
  rw [hstream]
  exact (hpackets w hw).trans (List.prefix_append _ _).isInfix

/-- Settles O32: the lengths of the two sides of the stream, and the counters as `Counted` has them. -/
theorem bytesAreAccountedFor : Obligations.BytesAreAccountedFor := by
  intro s cs h
  obtain ⟨t, ht, hwf, ⟨out, hstream, _, hlen⟩, hcounted⟩ := h.performAll_flow cs
  refine ⟨t, ht, ?_, fun hc => ?_⟩
  · have hsides : (s.buf ++ ingestedBytes cs).length = (out ++ t.buf).length := congrArg List.length hstream
    rwa [List.length_append, List.length_append, h.buf_length, hwf.buf_length, hlen] at hsides
  · obtain ⟨_, hrx, hresync, hfail, hover⟩ := hcounted hc
    exact ⟨⟨hrx, hresync, hfail, hover⟩, fun hle => hrx.trans (incTimes_of_le hle),
      fun hle => hresync.trans (incTimes_of_le hle), fun hle => hfail.trans (incTimes_of_le hle),
      fun hle => hover.trans (incTimes_of_le hle)⟩

end Sys2Proof.Machine
end

section
/-! SUPPORT. The control operations (42_control.md): NOP (R150), STATS_CLEAR (R152) and STATUS_READ (R153), and their
commands with a reserved encoding (R74). -/

namespace Sys2Proof.Machine

/-! NOP and STATS_CLEAR, every argument bit of which is reserved (R91). -/

theorem decode_nop_reservedBits {x : Word} (hx : x ≠ 0#32) : decode (0x0#4 ++ x) = .illegal .reservedBits := by
  rw [decode_nop, if_neg hx]

/-- Settles O36: NOP has one outcome, and an argument sets reserved bits. -/
theorem nopAnswersOk : Obligations.NopAnswersOk := fun s =>
  ⟨rfl, perform_encode (i := .nop) rfl s, fun _ hx => perform_illegal (decode_nop_reservedBits hx) s⟩

theorem decode_statsClear_reservedBits {x : Word} (hx : x ≠ 0#32) :
    decode (0x6#4 ++ x) = .illegal .reservedBits := by
  rw [decode_statsClear, if_neg hx]

/-- Settles O38: STATS_CLEAR has one outcome, and an argument sets reserved bits. -/
theorem statsClearZeroesTheCounters : Obligations.StatsClearZeroesTheCounters := fun s =>
  ⟨rfl, perform_encode (i := .statsClear) rfl s, fun _ hx => perform_illegal (decode_statsClear_reservedBits hx) s⟩

/-! STATUS_READ (R38, R153). -/

/-- The word of `sync_state` (R28) by the test on `count` that it stands for. -/
theorem State.toWord_syncState (s : State) : s.syncState.toWord = if 4 ≤ s.count then 1#32 else 0#32 :=
  apply_ite SyncState.toWord ..

theorem exec_statusRead_of_status {s : State} {sel : BitVec 2} {v : Word} (h : s.status sel = some v) :
    exec (.statusRead sel) s = .next (s.respond .value v) := by
  simp only [exec, execStatusRead, h]

/-- The decoder on a STATUS_READ with its reserved bits `x` and its selector apart (R91). -/
theorem decode_statusRead_append (x : BitVec 30) (sel : BitVec 2) :
    decode (0x7#4 ++ (x ++ sel)) = if x = 0#30 then
      (if selectorOk sel then .instr (.statusRead sel) else .illegal .reservedSelector) else .illegal .reservedBits := by
  have hx : BitVec.extractLsb' 2 30 (x ++ sel) = x := BitVec.extractLsb'_append_eq_left
  have hsel : BitVec.extractLsb' 0 2 (x ++ sel) = sel := BitVec.extractLsb'_append_eq_right
  have hd := decode_statusRead (x ++ sel)
  rwa [hx, hsel] at hd

theorem decode_statusRead_reservedBits {x : BitVec 30} (hx : x ≠ 0#30) (sel : BitVec 2) :
    decode (0x7#4 ++ (x ++ sel)) = .illegal .reservedBits := by
  rw [decode_statusRead_append, if_neg hx]

/-- CAP, and with it `count`, is a 32-bit value (R5, R26). -/
theorem State.WF.cap_lt {s : State} (h : s.WF) : s.cfg.cap < 2 ^ 32 := by
  obtain ⟨_, hcap, _⟩ := h.cfg
  omega

/-- Settles O39: the values of the three selectors, the reserved encodings by the decoder's lemma, the width by R5. -/
theorem statusReadAnswersTheStatus : Obligations.StatusReadAnswersTheStatus := fun s =>
  ⟨exec_statusRead_of_status rfl, exec_statusRead_of_status rfl,
   exec_statusRead_of_status (congrArg some s.toWord_syncState),
   fun sel hsel => perform_encode (i := .statusRead sel) (decide_eq_true hsel) s,
   perform_illegal (decode_statusRead_append 0#30 3#2) s,
   fun _ sel hx => perform_illegal (decode_statusRead_reservedBits hx sel) s,
   fun h => ⟨Nat.mod_eq_of_lt (h.count.trans_lt h.cap_lt), Nat.mod_eq_of_lt h.cap_lt⟩⟩

end Sys2Proof.Machine
end

section
/-! SUPPORT. Exceptions (60_exceptions.md): what each records (R171), and that none stops the block (R170). From a state
that meets the invariant a step always comes about, and a port's command does to `Buf` and the counters what R27 says,
in whatever order the ports move (R178). -/

namespace Sys2Proof.Machine

/-! The row of each exception in R171's table. -/

/-- The corrected word keeps the upper three bytes and replaces the checksum byte (R115). -/
theorem correctedWord_eq (w : Word) :
    correctedWord w
      = w.extractLsb' 8 24 ++ crc8 (w.extractLsb' 24 8) (w.extractLsb' 16 8) (w.extractLsb' 8 8) := by
  have hupper : w.extractLsb' 24 8 ++ w.extractLsb' 16 8 ++ w.extractLsb' 8 8 = w.extractLsb' 8 24 := by
    rw [BitVec.extractLsb'_append_extractLsb'_eq_extractLsb' (show 24 = 16 + 8 from rfl),
      BitVec.extractLsb'_append_extractLsb'_eq_extractLsb' (show 16 = 8 + 8 from rfl)]
  exact congrArg (· ++ _) hupper

/-- Settles O47: each row is written in `raise`; the codec's corrected word is `correctedWord_eq`. -/
theorem exceptionsRecordWhatR171Says : Obligations.ExceptionsRecordWhatR171Says := fun s w =>
  ⟨rfl, congrArg (s.respond .checksumError) (correctedWord_eq w), rfl, rfl⟩

/-! A port's turn from a state that meets the invariant. -/

/-- A port's command is performed and answered as over `Buf` (R27), and the other ports are left alone (R61). -/
theorem State.WF.step_port_refines {s : State} {p : Port} {rest : List Agent} {c : Command} {cs : List Command}
    (h : s.WF) (ht : s.turns = .port p :: rest) (hc : (s.port p).commands = c :: cs) :
    ∃ t, step s = .next t ∧ t.WF ∧ t.turns = rest ∧ t.abs = (s.abs.perform c).1 ∧
      t.port p = ⟨cs, (s.port p).answered ++ [(s.abs.perform c).2]⟩ ∧ ∀ q, q ≠ p → t.port q = s.port q := by
  obtain ⟨u, hu, hwf, habs, hresp⟩ := ((h.spendTurn rest).accept p cs).perform_refines c
  have hs : step s = .next (u.deliver p) := by rw [step_port ht hc, hu, mapNext_next]
  obtain ⟨⟨r, hport, hr⟩, hother, hturns⟩ := oneResponsePerCommand s _ p rest c cs ht hc hs
  rw [State.deliver_response, hresp] at hr
  cases hr
  simp only [State.abs_accept, State.abs_spendTurn] at habs hport
  exact ⟨_, hs, hwf.deliver p, hturns, (State.abs_deliver p u).trans habs, hport, hother⟩

/-! Nothing stops the block (R170). -/

/-- From a state that meets the invariant every step comes about, whoever has the turn. -/
theorem State.WF.step_completes {s : State} (h : s.WF) : ∃ t, step s = .next t := by
  cases ht : s.turns with
  | nil => exact ⟨s, step_of_no_turn ht⟩
  | cons agent rest =>
    cases agent with
    | reset => exact ⟨(s.spendTurn rest).applyReset, by rw [step, ht]⟩
    | port p =>
      cases hc : (s.port p).commands with
      | nil => exact ⟨s.spendTurn rest, step_of_quiet_port ht hc⟩
      | cons c cs =>
        obtain ⟨t, hs, _⟩ := h.step_port_refines ht hc
        exact ⟨t, hs⟩

/-- Settles O59, by induction on the number of steps: each comes about and keeps the invariant. -/
theorem nothingStopsTheBlock : Obligations.NothingStopsTheBlock := by
  intro s n h
  induction n generalizing s with
  | zero => trivial
  | succ n ih =>
    obtain ⟨t, hs⟩ := h.step_completes
    exact ⟨t, hs, ih t (stepKeepsTheInvariant s t h hs)⟩

/-! INGEST and POLL presented together (R178). -/

/-- Two ports with one turn each: the block performs the two commands in the order of the turns, and each port is given
its own command's response (R60, R61). -/
theorem State.WF.run_two_ports {s : State} {p q : Port} {c d : Command} {cs ds : List Command} (h : s.WF)
    (hpq : p ≠ q) (ht : s.turns = [.port p, .port q]) (hc : (s.port p).commands = c :: cs)
    (hd : (s.port q).commands = d :: ds) :
    ∃ t, Host.Core.run core 2 s = .next t ∧ t.abs = ((s.abs.perform c).1.perform d).1 ∧
      t.port p = ⟨cs, (s.port p).answered ++ [(s.abs.perform c).2]⟩ ∧
      t.port q = ⟨ds, (s.port q).answered ++ [((s.abs.perform c).1.perform d).2]⟩ := by
  obtain ⟨u, hsu, hwf, htu, habs, hport, hother⟩ := h.step_port_refines ht hc
  have hq : u.port q = s.port q := hother q hpq.symm
  obtain ⟨t, hut, _, _, habs', hport', hother'⟩ := hwf.step_port_refines htu (by rw [hq, hd])
  rw [habs] at habs' hport'
  exact ⟨t, by rw [run_of_next 1 hsu, run_of_next 0 hut]; rfl, habs', (hother' p hpq).trans hport, hq ▸ hport'⟩

theorem Abstract.perform_encode {i : Instr} (h : i.wellFormed = true) (a : Abstract) :
    a.perform (encode i) = a.exec i :=
  Abstract.perform_instr (decodeAfterEncode i h) a

/-- POLL counts no overflow (R33). -/
theorem Abstract.poll_overflowEvents (a : Abstract) : a.poll.1.overflowEvents = a.overflowEvents := by
  obtain ⟨_, he⟩ | ⟨_, _, _, _, _, _, _, he⟩ | ⟨_, _, _, _, _, _, _, he⟩ := a.poll_cases <;> rw [he]

/-- A POLL with a window takes bytes away, as a packet or as a slip, and so leaves room (R136, R137). -/
theorem Abstract.poll_makes_room {a : Abstract} (hwindow : 4 ≤ a.buf.length) (hcap : a.buf.length ≤ a.cfg.cap) :
    a.poll.1.buf.length < a.poll.1.cfg.cap := by
  obtain ⟨hfew, _⟩ | ⟨b0, b1, b2, b3, rest, hb, _, he⟩ | ⟨b0, b1, b2, b3, rest, hb, _, he⟩ := a.poll_cases
  · omega
  · rw [he]
    show rest.length < a.cfg.cap
    simp only [hb, List.length_cons] at hcap
    omega
  · rw [he]
    show (b1 :: b2 :: b3 :: rest).length < a.cfg.cap
    simp only [hb, List.length_cons] at hcap ⊢
    omega

/-- Settles O53: the two turns over `Buf`. A POLL of a full buffer leaves room for the INGEST after it; an INGEST of one
counts its overflow, which the POLL after it leaves. -/
theorem ingestAndPollInEitherOrder : Obligations.IngestAndPollInEitherOrder := by
  intro s b is cs h hfull hi hp
  have hlen : s.abs.buf.length = s.abs.cfg.cap := h.buf_length.trans hfull
  have hingest (a : Abstract) : a.perform (encode (.ingest b)) = a.ingest b := Abstract.perform_encode rfl a
  have hpoll (a : Abstract) : a.perform (encode .poll) = a.poll := Abstract.perform_encode rfl a
  constructor
  · intro hturns
    have hroom := Abstract.poll_makes_room (a := s.abs) (hlen ▸ h.cfg.1) hlen.le
    obtain ⟨t, hrun, habs, _, hport⟩ := h.run_two_ports (p := .consumer) (q := .ingress) (by decide) hturns hp hi
    rw [hpoll, hingest, Abstract.ingest_of_not_full b _ hroom.ne] at habs hport
    exact ⟨t, hrun, (congrArg Abstract.overflowEvents habs).trans s.abs.poll_overflowEvents,
      congrArg PortState.answered hport⟩
  · intro hturns
    obtain ⟨t, hrun, habs, hport, _⟩ := h.run_two_ports (p := .ingress) (q := .consumer) (by decide) hturns hi hp
    rw [hingest, Abstract.ingest_of_full b _ hlen] at habs hport
    rw [hpoll] at habs
    exact ⟨t, hrun, (congrArg Abstract.overflowEvents habs).trans (Abstract.poll_overflowEvents _),
      congrArg PortState.answered hport⟩

end Sys2Proof.Machine
end

section
/-! SUPPORT. Reset as a turn of its own (70_reset_and_hazards.md): its one outcome (R190, R40), and what becomes of a
command presented together with it in the two orders of turns (R191). -/

namespace Sys2Proof.Machine

/-- Reset's turn has one outcome in every state (R190). -/
theorem step_reset {s : State} {rest : List Agent} (ht : s.turns = .reset :: rest) :
    step s = .next (s.spendTurn rest).applyReset := by
  rw [step, ht]

/-- Over `Buf`, what reset makes of any state is the reset state of its parameters (R40, R41). -/
@[simp] theorem State.abs_applyReset (s : State) : s.applyReset.abs = (State.resetWith s.cfg).abs := rfl

/-- Settles O54: the values are written in `applyReset`, which leaves the ports to their turns. -/
theorem resetStep : Obligations.ResetStep := fun s rest ht =>
  ⟨(s.spendTurn rest).applyReset, step_reset ht, rfl, rfl, rfl, rfl, rfl, rfl, rfl, rfl, rfl, rfl, rfl, rfl,
    fun p => by simp⟩

/-- Settles O55: with the port's turn first, its command is performed and answered, and the reset after it leaves the port
with that answer; with reset first, the port is left as it was. -/
theorem commandPresentedWithReset : Obligations.CommandPresentedWithReset := by
  intro s p c cs rest h hc
  constructor
  · intro ht
    obtain ⟨u, hsu, _, htu, _, hport, _⟩ := h.step_port_refines ht hc
    have hrun : Host.Core.run core 2 s = .next (u.spendTurn rest).applyReset := by
      rw [run_of_next 1 hsu, run_of_next 0 (step_reset htu)]; rfl
    refine ⟨_, (s.abs.perform c).2, hrun, ?_, rfl, ?_⟩
    · rw [State.abs_applyReset, State.spendTurn_cfg, step_cfg hsu]
    · rw [State.port_applyReset, State.port_spendTurn, hport]
  · intro ht
    exact ⟨_, step_reset ht, State.abs_applyReset _, rfl, by simp, rfl⟩

end Sys2Proof.Machine
end

section
/-! SUPPORT. The decoder against spec/opcode_table.json (30_encoding.md, section 3): the rows by the fields of R70, and
the mnemonics of the rows that a command matches. -/

namespace Sys2Proof

/-! Matching a row, field by field (R70). -/

/-- A row by fields: an op code, a mask of the argument bits that are to be zero, and the excluded arguments. -/
def TableRow.ofFields (mnemonic : String) (o : Nibble) (zeros : Word) (excluded : List Word) : TableRow :=
  { mnemonic, mtch := o ++ 0#32, mask := 0xF#4 ++ zeros, excluded := excluded.map (o ++ ·) }

theorem opcodeTable_eq_ofFields : opcodeTable =
    [ .ofFields "NOP"         0x0#4 0xFFFFFFFF#32 [],
      .ofFields "INGEST"      0x1#4 0xFFFFFF00#32 [],
      .ofFields "POLL"        0x2#4 0xFFFFFFFF#32 [],
      .ofFields "ENCODE"      0x3#4 0x000000FF#32 [],
      .ofFields "VALIDATE"    0x4#4 0x00000000#32 [],
      .ofFields "STATS_READ"  0x5#4 0xFFFFFFFC#32 [],
      .ofFields "STATS_CLEAR" 0x6#4 0xFFFFFFFF#32 [],
      .ofFields "STATUS_READ" 0x7#4 0xFFFFFFFC#32 [3#32] ] := rfl

/-- A command has one code and one argument. -/
theorem opcode_append_inj {o p : Nibble} {a b : Word} : (o ++ a : Command) = p ++ b ↔ o = p ∧ a = b := by
  constructor
  · intro h
    obtain ⟨ho, ha⟩ := Laws.Layout.op_arg o a
    obtain ⟨hp, hb⟩ := Laws.Layout.op_arg p b
    exact ⟨by rw [← ho, h, hp], by rw [← ha, h, hb]⟩
  · rintro ⟨rfl, rfl⟩
    rfl

theorem TableRow.matches_ofFields (n : String) (p : Nibble) (zeros : Word) (ex : List Word) (o : Nibble) (a : Word) :
    (TableRow.ofFields n p zeros ex).matches (o ++ a) = decide (o = p ∧ a &&& zeros = 0#32 ∧ a ∉ ex) := by
  have hcode : o &&& 0xF#4 = o := BitVec.and_allOnes
  have hbits : (o ++ a : Command) &&& (0xF#4 ++ zeros) = p ++ 0#32 ↔ o = p ∧ a &&& zeros = 0#32 := by
    rw [BitVec.and_append, hcode, opcode_append_inj]
  by_cases h : o = p
  · subst h
    simp [TableRow.matches, TableRow.ofFields, hbits, opcode_append_inj]
  · simp [TableRow.matches, TableRow.ofFields, hbits, h]

/-- The mask of the rows that admit no argument. -/
theorem and_mask_all (a : Word) : a &&& 0xFFFFFFFF#32 = a := BitVec.and_allOnes

/-! The operands that the rows admit are those that the decoder admits (R37, R38). -/

theorem toNat_upper (n m : Nat) (a : BitVec (m + n)) : (a.extractLsb' m n).toNat = a.toNat / 2 ^ m := by
  rw [BitVec.extractLsb'_toNat, Nat.shiftRight_eq_div_pow, Nat.mod_eq_of_lt]
  exact Nat.div_lt_of_lt_mul (Nat.pow_add .. ▸ a.isLt)

/-- STATS_READ's row asks for one zero bit more than R91: the upper bit of the counter id. -/
theorem upper30_eq_zero_iff (a : Word) :
    a.extractLsb' 2 30 = 0#30 ↔ a.extractLsb' 3 29 = 0#29 ∧ counterIdOk (a.extractLsb' 0 3) = true := by
  have h2 : (a.extractLsb' 2 30).toNat = a.toNat / 4 := toNat_upper 30 2 a
  have h3 : (a.extractLsb' 3 29).toNat = a.toNat / 8 := toNat_upper 29 3 a
  have hid : (a.extractLsb' 0 3).toNat = a.toNat % 8 := a.extractLsb'_toNat 0 3
  rw [← BitVec.toNat_inj, ← BitVec.toNat_inj, h2, h3, counterIdOk, decide_eq_true_iff, hid]
  change _ = 0 ↔ _ = 0 ∧ _
  omega

/-- Selector 3 is the one argument that STATUS_READ's row excludes. -/
theorem ne_three_iff_selectorOk {a : Word} (h : a.extractLsb' 2 30 = 0#30) :
    a ≠ 3#32 ↔ selectorOk (a.extractLsb' 0 2) = true := by
  have ha : 0#30 ++ a.extractLsb' 0 2 = a := zero_append_of_upper_eq_zero h
  rw [selectorOk_iff, ← ha]
  generalize a.extractLsb' 0 2 = sel
  revert sel; decide

/-! The whole table. -/

/-- The mnemonics that stand for a decoded command: the operation's own, and none for ILLEGAL. -/
def Decoded.mnemonics : Decoded → List String
  | .instr i => [i.mnemonic]
  | .illegal _ => []

@[simp] theorem Decoded.mnemonics_instr (i : Instr) : (Decoded.instr i).mnemonics = [i.mnemonic] := rfl

@[simp] theorem Decoded.mnemonics_illegal (r : IllegalReason) : (Decoded.illegal r).mnemonics = [] := rfl

@[simp] theorem Decoded.mnemonics_ite (p : Prop) [Decidable p] (d e : Decoded) :
    (if p then d else e).mnemonics = if p then d.mnemonics else e.mnemonics := apply_ite _ p d e

theorem map_mnemonic_filter_cons_ofFields (n : String) (p : Nibble) (zeros : Word) (ex : List Word)
    (rows : List TableRow) (o : Nibble) (a : Word) :
    ((TableRow.ofFields n p zeros ex :: rows).filter (fun r => r.matches (o ++ a))).map TableRow.mnemonic =
      (if o = p ∧ a &&& zeros = 0#32 ∧ a ∉ ex then [n] else []) ++
        (rows.filter (fun r => r.matches (o ++ a))).map TableRow.mnemonic := by
  simp only [List.filter_cons, TableRow.matches_ofFields, decide_eq_true_iff]
  split <;> rfl

/-- The rows that a command matches carry the mnemonic of the operation it decodes to. An op code of R72 leaves
one row, whose condition on the argument is the one of the decoder's equation; a reserved one leaves none. -/
theorem map_mnemonic_filter_matches (c : Command) :
    (opcodeTable.filter (fun r => r.matches c)).map TableRow.mnemonic = (decode c).mnemonics := by
  rw [c.split, opcodeTable_eq_ofFields]
  generalize c.op = o, c.arg = a
  simp only [map_mnemonic_filter_cons_ofFields, List.filter_nil, List.map_nil]
  obtain rfl | rfl | rfl | rfl | rfl | rfl | rfl | rfl | ho := op_cases o
  · simp [decode_nop, and_mask_all, Instr.mnemonic]
  · simp [decode_ingest, and_mask_ingest, Instr.mnemonic]
  · simp [decode_poll, and_mask_all, Instr.mnemonic]
  · simp [decode_encode, and_mask_encode, Instr.mnemonic]
  · simp [decode_validate, Instr.mnemonic]
  · simp [decode_statsRead, and_mask_statusRead, upper30_eq_zero_iff, ite_and, Instr.mnemonic]
  · simp [decode_statsClear, and_mask_all, Instr.mnemonic]
  · by_cases hupper : a.extractLsb' 2 30 = 0#30
    · simp [decode_statusRead, and_mask_statusRead, hupper, ← ne_three_iff_selectorOk, Instr.mnemonic]
    · simp [decode_statusRead, and_mask_statusRead, hupper]
  · have hne (p : Nibble) (hp : p.toNat < 8) : o ≠ p := by
      rintro rfl
      omega
    simp [decode_reservedOp o a ho, hne]

/-- Settles O4: a decoded command has one mnemonic, an ILLEGAL one has none. -/
theorem decoderFollowsOpcodeTable : Obligations.DecoderFollowsOpcodeTable := by
  constructor
  · intro c i h
    rw [map_mnemonic_filter_matches, h, Decoded.mnemonics_instr]
  · intro c r h
    have hrows := map_mnemonic_filter_matches c
    rw [h, Decoded.mnemonics_illegal] at hrows
    exact List.map_eq_nil_iff.mp hrows

end Sys2Proof
end
